-- ==== Sys2Proof/Word.lean ====
section
/-! DEFINITION. The widths of the core's values (spec 00_scope.md R8, R11; 10_state.md R20): byte, data word,
24-bit word, block, slice triple, the eight slices, the generator matrix, and a frame of any length. -/

namespace Sys2Proof

/-- 8 bits (R11). -/
abbrev Byte := BitVec 8

/-- "12-bit unsigned value, the payload unit" (R13, R71). Also the width of a checksum and of a syndrome. -/
abbrev DataWord := BitVec 12

/-- A 24-bit value: a codeword `(DataWord << 12) | Checksum`, or an arbitrary received word (R71). -/
abbrev Codeword := BitVec 24

/-- A sequence of exactly 12 bytes, byte 0 the first in stream order (R11, R34). -/
abbrev Block := Vector Byte 12

/-- The 3 bytes one slice carries for one block (R13). -/
abbrev SliceTriple := Vector Byte 3

/-- Eight slice triples, slice `k` at index `k` (R91). -/
abbrev Slices := Vector SliceTriple 8

/-- The twelve 12-bit GeneratorRows, row `i` at index `i` (R8, R15). -/
abbrev GeneratorMatrix := Vector DataWord 12

/-- A command or response frame: a bit vector of its own length, bit 0 the least significant (R49, R50, R52). -/
structure Frame where
  len : Nat
  bits : BitVec len
  deriving DecidableEq, Repr

end Sys2Proof
end

