-- ==== Sys2Proof/Machine/Bits.lean ====
section
/-! DEFINITION. Bit and byte helpers of the notation (spec 00_scope.md R11): building a value from its bit positions,
weight and parity, byte `j` of a sequence, the field layout of a run of bytes (30_encoding.md R50),
and the one operand domain narrower than its field (R58). -/

namespace Sys2Proof

/-- The `n`-bit value whose bit position `p` (weight `2^p`, R11) is `f p`. -/
def ofBits : (n : Nat) → (Nat → Bool) → BitVec n
  | 0, _ => 0#0
  | n + 1, f => BitVec.cons (f n) (ofBits n f)

/-- "The number of 1 bits" (weight, R11). -/
def popcount {n : Nat} (v : BitVec n) : Nat := (List.range n).countP fun p => v.getLsbD p

/-- `popcount mod 2`, a single bit (R11). -/
def parity {n : Nat} (v : BitVec n) : Bool := decide (popcount v % 2 = 1)

/-- `parity` as a bit at position 0 of an `m`-bit value. -/
def parityBit {n : Nat} (m : Nat) (v : BitVec n) : BitVec m := BitVec.ofNat m (parity v).toNat

/-- Byte `j` of a sequence held in a vector. Past the end it reads 0, and no rule of the model reads there. -/
def byteAt {n : Nat} (v : Vector Byte n) (j : Nat) : Byte := v[j]?.getD 0#8

/-- Byte `t` of slice `k` (R91). Past the ends it reads 0, and no rule of the model reads there. -/
def sliceByte (sl : Slices) (k t : Nat) : Byte := byteAt (sl[k]?.getD (Vector.replicate 3 0#8)) t

/-- `n` bytes laid one after the other, byte `j` at bits `8j+7 : 8j` (R50). -/
def packBytes (n : Nat) (g : Nat → Byte) : BitVec (8 * n) :=
  ofBits (8 * n) fun p => (g (p / 8)).getLsbD (p % 8)

/-- `byte(j)` at offset `off`: the 8-bit field `v[off+8j+7 : off+8j]` (R50). -/
def byteField {n : Nat} (v : BitVec n) (off j : Nat) : Byte := v.extractLsb' (off + 8 * j) 8

/-- The block whose bytes stand at offset `off` (formats B and P of R50). -/
def blockField {n : Nat} (v : BitVec n) (off : Nat) : Block := Vector.ofFn fun j => byteField v off j.val

/-- The eight slice triples at offset `off`: byte `t` of slice `k` is `byte(3k+t)` (format S of R50, RS of R52). -/
def slicesField {n : Nat} (v : BitVec n) (off : Nat) : Slices :=
  Vector.ofFn fun k => Vector.ofFn fun t => byteField v off (3 * k.val + t.val)

/-- A block as a frame field: byte `j` at bits `8j+7 : 8j`. -/
def packBlock (blk : Block) : BitVec 96 := packBytes 12 (byteAt blk)

/-- The eight slice triples as a frame field: byte `t` of slice `k` is byte `3k+t` of the field. -/
def packSlices (sl : Slices) : BitVec 192 := packBytes 24 fun n => sliceByte sl (n / 3) (n % 3)

/-- `PAD`'s operand domain: `len` in 0..11 (R58). Every other operand field is exactly as wide as its domain, or masked. -/
def padLenLegal (len : BitVec 4) : Bool := decide (len.toNat ≤ 11)

end Sys2Proof
end

