-- ==== Sys2Proof/Config.lean ====
section
/-! DEFINITION. What an implementation of the core fixes: the two OPEN parameters of spec 00_scope.md R8 (the matrix
`B` and the counter width `CNT_W`). The other sizes of R8 are fixed by the spec and are in the types of Word.lean. -/

namespace Sys2Proof

/-- The OPEN parameters of R8. They are constants of one core: no operation writes them (R15, R47). -/
structure Config where
  /-- `B[0..11]`, the generator matrix (R8, R15). -/
  b : GeneratorMatrix
  /-- `CNT_W`, the width in bits of each statistics counter (R8, R17). -/
  cntW : Nat
  deriving DecidableEq, Repr

end Sys2Proof
end

