-- ==== Sys2Proof/Syntax.lean ====
section
/-! DEFINITION. The commands of the core: one constructor per row of spec/opcode_table.json, with every operand field
the frame carries, the ignored ones included (30_encoding.md R50, R51, R54). -/

namespace Sys2Proof

/-- One command. Operand fields are the raw frame fields of R50; what an operation takes from them is in Operands.lean. -/
inductive Instr where
  /-- `ENC`, opcode 0x1, format W: encode the data word `w[11:0]` (R74). -/
  | enc (w : BitVec 24)
  /-- `DEC`, opcode 0x2, format W: decode the received word `w` (R80). -/
  | dec (w : BitVec 24)
  /-- `ENCBLK`, opcode 0x3, format B: encode one block into eight slice triples (R94). -/
  | encblk (blk : Block)
  /-- `DECBLK`, opcode 0x4, format S: decode up to eight slice triples into one block (R98). -/
  | decblk (present : BitVec 8) (sl : Slices)
  /-- `PAD`, opcode 0x5, format P: pad a final chunk of `len` bytes (R108). -/
  | pad (len : BitVec 4) (chunk : Block)
  /-- `UNPAD`, opcode 0x6, format B: strip the padding of a last block (R110). -/
  | unpad (blk : Block)
  /-- `RDSTAT`, opcode 0x7, format N (R117). -/
  | rdstat
  /-- `CLRSTAT`, opcode 0x8, format N (R118). -/
  | clrstat
  /-- Reserved opcode 0x0, format N (R57). -/
  | reserved0
  /-- Reserved opcode 0x9, format N (R57). -/
  | reserved9
  /-- Reserved opcode 0xA, format N (R57). -/
  | reservedA
  /-- Reserved opcode 0xB, format N (R57). -/
  | reservedB
  /-- Reserved opcode 0xC, format N (R57). -/
  | reservedC
  /-- Reserved opcode 0xD, format N (R57). -/
  | reservedD
  /-- Reserved opcode 0xE, format N (R57). -/
  | reservedE
  /-- Reserved opcode 0xF, format N (R57). -/
  | reservedF
  deriving DecidableEq, Repr

end Sys2Proof
end

