-- ==== Sys2Proof/WellFormed.lean ====
section
/-! DEFINITION. Which commands are legal: a command that names an operation and whose operands lie in that operation's
domain (spec 30_encoding.md R57, R58). Every other command is answered `ILLEGAL` and performed in no part. -/

namespace Sys2Proof

/-- A legal command (R57, R58). -/
def Instr.wellFormed : Instr → Bool
  | .enc _ => true
  | .dec _ => true
  | .encblk _ => true
  | .decblk _ _ => true
  | .pad len _ => padLenLegal len
  | .unpad _ => true
  | .rdstat => true
  | .clrstat => true
  | .reserved0 => false
  | .reserved9 => false
  | .reservedA => false
  | .reservedB => false
  | .reservedC => false
  | .reservedD => false
  | .reservedE => false
  | .reservedF => false

end Sys2Proof
end

