-- ==== Sys2Proof/Decode.lean ====
section
/-! DEFINITION. The command decoder, total on every frame and rejecting by name, and after it the encoder, both from the
formats of spec 30_encoding.md R50, R51, R56. A frame's length is fixed by its opcode (R49). -/

namespace Sys2Proof

/-- Why a bit vector is no command frame. -/
inductive DecodeError where
  /-- It has fewer than the 4 bits of an opcode field (R49, R50). -/
  | noOpcode
  /-- Its length is not the one its opcode fixes (R49, R56). -/
  | wrongLength
  deriving DecidableEq, Repr

/-- The opcode field `frame[3:0]` (R50). -/
def Frame.opcode (f : Frame) : BitVec 4 := f.bits.extractLsb' 0 4

/-- The length in bits of a frame with this opcode: formats W 28, B 100, S 204, P 104, N 4 (R50, R51, R56). -/
def frameLength (op : BitVec 4) : Nat :=
  match op.toNat with
  | 1 => 28
  | 2 => 28
  | 3 => 100
  | 4 => 204
  | 5 => 104
  | 6 => 100
  | _ => 4

/-- The command a frame of the right length spells: the fields of R50 by the opcode map of R51. -/
def decodeFields (f : Frame) : Instr :=
  match f.opcode.toNat with
  | 0 => .reserved0
  | 1 => .enc (f.bits.extractLsb' 4 24)
  | 2 => .dec (f.bits.extractLsb' 4 24)
  | 3 => .encblk (blockField f.bits 4)
  | 4 => .decblk (f.bits.extractLsb' 4 8) (slicesField f.bits 12)
  | 5 => .pad (f.bits.extractLsb' 4 4) (blockField f.bits 8)
  | 6 => .unpad (blockField f.bits 4)
  | 7 => .rdstat
  | 8 => .clrstat
  | 9 => .reserved9
  | 10 => .reservedA
  | 11 => .reservedB
  | 12 => .reservedC
  | 13 => .reservedD
  | 14 => .reservedE
  | _ => .reservedF   -- 15, the one value of a 4-bit field left

/-- The decoder: read `frame[3:0]`, look up the length, take the fields (R56). -/
def decodeFrame (f : Frame) : Except DecodeError Instr :=
  if f.len < 4 then .error .noOpcode
  else if f.len ≠ frameLength f.opcode then .error .wrongLength
  else .ok (decodeFields f)

/-- The encoder: the frame of a command (R50, R51). -/
def encode : Instr → Frame
  | .enc w => ⟨28, w ++ 0x1#4⟩
  | .dec w => ⟨28, w ++ 0x2#4⟩
  | .encblk blk => ⟨100, packBlock blk ++ 0x3#4⟩
  | .decblk present sl => ⟨204, packSlices sl ++ (present ++ 0x4#4)⟩
  | .pad len chunk => ⟨104, packBlock chunk ++ (len ++ 0x5#4)⟩
  | .unpad blk => ⟨100, packBlock blk ++ 0x6#4⟩
  | .rdstat => ⟨4, 0x7#4⟩
  | .clrstat => ⟨4, 0x8#4⟩
  | .reserved0 => ⟨4, 0x0#4⟩
  | .reserved9 => ⟨4, 0x9#4⟩
  | .reservedA => ⟨4, 0xA#4⟩
  | .reservedB => ⟨4, 0xB#4⟩
  | .reservedC => ⟨4, 0xC#4⟩
  | .reservedD => ⟨4, 0xD#4⟩
  | .reservedE => ⟨4, 0xE#4⟩
  | .reservedF => ⟨4, 0xF#4⟩

/-- The frame of a table word `w` given with `nbits` bits: every bit above `nbits` is 0, and of the result the decoder
takes as many bits as the opcode fixes (R56). -/
def frameOfTableWord (nbits w : Nat) : Frame :=
  let v := w % 2 ^ nbits
  let len := frameLength (BitVec.ofNat 4 v)
  ⟨len, BitVec.ofNat len v⟩

/-- The command the decoder reads from a table word, bit 0 the least significant bit of the frame. -/
def decodeTableWord (nbits w : Nat) : Option Instr :=
  match decodeFrame (frameOfTableWord nbits w) with
  | .ok i => some i
  | .error _ => none

end Sys2Proof
end

