-- ==== Sys2Proof/Machine/Golay.lean ====
section
/-! DEFINITION. GolayCodec as pure functions (spec 40_codec.md R72, R74, R76, R77), the default matrix (00_scope.md R10)
and the properties required of a matrix (R9). Everything takes the matrix as an argument, so a law can quantify over it. -/

namespace Sys2Proof

/-- `DEFAULT_B` (R10): the spec's default, from general knowledge and not from its source. -/
def defaultB : GeneratorMatrix :=
  #v[0xDC5#12, 0xB8B#12, 0x717#12, 0xE2D#12, 0xC5B#12, 0x8B7#12, 0x16F#12, 0x2DD#12, 0x5B9#12, 0xB71#12, 0x6E3#12, 0xFFE#12]

/-- The defaults of the two open parameters (R8): `DEFAULT_B` and `CNT_W = 32`. -/
def Config.default : Config := ⟨defaultB, 32⟩

/-- The checksum (R72): for each row in ascending order shift the result left and bring in the parity of `x AND B[i]`, so
that row `i` lands at bit position `11-i`. -/
def chk (b : GeneratorMatrix) (x : DataWord) : DataWord :=
  b.toList.foldl (fun y row => (y <<< 1) ||| parityBit 12 (x &&& row)) 0#12

/-- `encode(x) = (x << 12) OR chk(x)` (R74). -/
def encodeWord (b : GeneratorMatrix) (x : DataWord) : Codeword := x ++ chk b x

/-- A codeword is valid iff its checksum matches its data bits (R71). -/
def validCodeword (b : GeneratorMatrix) (c : Codeword) : Bool :=
  decide (c.extractLsb' 0 12 = chk b (c.extractLsb' 12 12))

/-- `1 << (11-i)`: the data bit that row `i` stands for (R77 stage 4). -/
def rowBit (i : Fin 12) : DataWord := 1#12 <<< (11 - i.val)

/-- The first row, in ascending order, within distance 2 of `s` (the searches of stages 4 and 6, R77, R82). -/
def firstNearRow (b : GeneratorMatrix) (s : DataWord) : Option (Fin 12) :=
  (List.finRange 12).find? fun i => decide (popcount (s ^^^ b[i]) ≤ 2)

/-- The result of a decode: "`DataWord | Uncorrectable`" (R76). -/
inductive DecodeResult where
  | data (d : DataWord)
  | uncorrectable
  deriving DecidableEq, Repr

/-- The statistics delta `(dp, dc, du)` of one decode (R18, R76). -/
structure Delta where
  processed : Nat
  corrected : Nat
  uncorrectable : Nat
  deriving DecidableEq, Repr

/-- The syndrome of a received word: expected XOR received checksum (R77 stages 1 and 2). -/
def syndrome (b : GeneratorMatrix) (c : Codeword) : DataWord :=
  chk b (c.extractLsb' 12 12) ^^^ c.extractLsb' 0 12

/-- The decode algorithm, stage by stage (R77). -/
def decodeWord (b : GeneratorMatrix) (c : Codeword) : DecodeResult × Delta :=
  let rd : DataWord := c.extractLsb' 12 12
  let s := syndrome b c
  let wt := popcount s
  if wt ≤ 3 then (.data rd, ⟨1, if wt > 0 then 1 else 0, 0⟩)                -- stage 3
  else
    match firstNearRow b s with
    | some i => (.data (rd ^^^ rowBit i), ⟨1, 1, 0⟩)                         -- stage 4
    | none =>
      let inv := chk b s
      if popcount inv ≤ 3 then (.data (rd ^^^ inv), ⟨1, 1, 0⟩)               -- stage 5
      else
        match firstNearRow b inv with
        | some i => (.data (rd ^^^ inv ^^^ b[i]), ⟨1, 1, 0⟩)                 -- stage 6
        | none => (.uncorrectable, ⟨1, 0, 1⟩)                                -- stage 7

/-- `GoodB(B)` (R9): what every claim about error correction takes as a hypothesis. `M[i][c]` is bit position `11-c` of row
`i`. -/
structure GoodB (b : GeneratorMatrix) : Prop where
  /-- GB1: symmetric. -/
  symmetric : ∀ i c : Fin 12, b[i].getLsbD (11 - c.val) = b[c].getLsbD (11 - i.val)
  /-- GB2: self-inverse. -/
  selfInverse : ∀ x : DataWord, chk b (chk b x) = x
  /-- GB3: distance 8. -/
  distance : ∀ x : DataWord, x ≠ 0#12 → 8 ≤ popcount x + popcount (chk b x)
  /-- GB4, first part: every row has weight at least 7. -/
  rowWeight : ∀ i : Fin 12, 7 ≤ popcount b[i]
  /-- GB4, second part: two distinct rows differ in at least 6 positions. -/
  rowDistance : ∀ i c : Fin 12, i ≠ c → 6 ≤ popcount (b[i] ^^^ b[c])

end Sys2Proof
end

