-- ==== Sys2Proof/Machine/State.lean ====
section
/-! DEFINITION. Everything the core holds and everything its host has handed it, as plain data (spec 10_state.md R15 to R25,
20_memory.md R31, R32, 30_encoding.md R52, 44_stream_sequencer.md R123, R136); the reset state (R25, R167); and the reasons
a step can stop. -/

namespace Sys2Proof.Machine

/-- The three statistics counters, each below `2^CNT_W` (R16, R17). -/
structure Stat where
  processed : Nat
  corrected : Nat
  uncorrectable : Nat
  deriving DecidableEq, Repr

/-- A response, one constructor per format of R52. `status` is the low 4 bits of every response (R53). -/
inductive Response where
  /-- `RN`: `CLRSTAT`, and any command answered `ILLEGAL`. -/
  | rn (status : BitVec 4)
  /-- `RW`: `ENC`, `DEC`. -/
  | rw (status : BitVec 4) (w : BitVec 24)
  /-- `RB`: `DECBLK`, `PAD`. -/
  | rb (status : BitVec 4) (blk : Block)
  /-- `RS`: `ENCBLK`. -/
  | rs (status : BitVec 4) (sl : Slices)
  /-- `RP`: `UNPAD`. -/
  | rp (status : BitVec 4) (len : BitVec 4) (out : Block)
  /-- `RC`: `RDSTAT`. -/
  | rc (status : BitVec 4) (processed corrected uncorrectable : Nat)
  deriving DecidableEq, Repr

/-- The outcome of a run (R149), one constructor per code 0 to 5. -/
inductive RunOutcome where
  | success
  | inputOpenFailure
  | outputsUnavailable
  | insufficientInputs
  | sliceWriteFailure
  | lossy
  deriving DecidableEq, Repr

/-- The run result the host gets (R136). -/
structure RunResult where
  outcome : RunOutcome
  padAnomaly : Bool
  stats : Stat
  deriving DecidableEq, Repr

/-- What the host's output stream answers to one write (R38): it appends all bytes, or it fails with the first `landed`
bytes of that write (all of them if `landed` is larger) appended. -/
inductive WriteAnswer where
  | ok
  | fail (landed : Nat)
  deriving DecidableEq, Repr

/-- An input stream: a finite sequence of bytes and a cursor that only moves forward (R32). -/
structure InStream where
  bytes : List Byte
  cursor : Nat
  deriving DecidableEq, Repr

/-- A slice output: the bytes appended so far, and the host's answers to the writes still to come, in order; past the end of
the list every write succeeds (R32, R38). -/
structure OutStream where
  bytes : List Byte
  answers : List WriteAnswer
  deriving DecidableEq, Repr

/-- The streams of R31, each slice with its own sequence and cursor (R46). They are the host's, and hold what has been written
when a run has ended. -/
structure Streams where
  /-- `SRC`. -/
  src : InStream
  /-- `SL[0..7]` as inputs. -/
  slIn : Vector InStream 8
  /-- `SL[0..7]` as outputs. -/
  slOut : Vector OutStream 8
  /-- `OUT`: the bytes written so far. -/
  out : List Byte
  deriving DecidableEq, Repr

/-- Where an encode run stands in the procedure of R125. -/
inductive EncodePhase where
  /-- About to read `SRC`. -/
  | read
  /-- About to write slice `k`'s triple of `sl`. -/
  | write (k : Fin 8) (sl : Slices)
  /-- About to return this outcome. -/
  | done (o : RunOutcome)
  deriving DecidableEq, Repr

/-- Sequencer state of an encode run (R23). -/
structure EncodeRun where
  phase : EncodePhase
  /-- The current iteration is the last. -/
  terminal : Bool
  deriving DecidableEq, Repr

/-- Where a decode run stands in the procedure of R129. -/
inductive DecodePhase where
  /-- About to read slice `k`, if it is present. -/
  | read (k : Fin 8)
  /-- Every present slice has been read: about to decode, or to write the final block. -/
  | block
  /-- About to return the result. -/
  | done
  deriving DecidableEq, Repr

/-- Sequencer state of a decode run (R23). -/
structure DecodeRun where
  phase : DecodePhase
  /-- Bit `k`: slice `k` is available, fixed for the run. -/
  present : BitVec 8
  /-- What this iteration's read of each slice returned (`r[k]` of R129). -/
  got : Vector (List Byte) 8
  /-- The previous fully decoded block, held one iteration in arrears. -/
  prev : Option Block
  /-- Some decoded codeword so far was Uncorrectable. -/
  lossy : Bool
  /-- The final block's pad byte was malformed. -/
  padAnomaly : Bool
  /-- The current iteration is the last: some present slice gave a short read (R130). -/
  terminal : Bool
  deriving DecidableEq, Repr

/-- A run in progress. The constructor is R23's `mode`. -/
inductive Run where
  | encode (r : EncodeRun)
  | decode (r : DecodeRun)
  deriving DecidableEq, Repr

/-- What the host can ask of the core: a command frame (R49), or a run with its handles (R123), `none` for a handle the host
does not have. An input handle carries the stream's bytes, an output handle the answers its writes will get. -/
inductive Request where
  | command (f : Frame)
  | encodeRun (src : Option (List Byte)) (sl : Vector (Option (List WriteAnswer)) 8)
  | decodeRun (sl : Vector (Option (List Byte)) 8)
  deriving DecidableEq, Repr

/-- The core and what its host has handed it. -/
structure State where
  /-- The constants `B` and `CNT_W` (R8, R15). Nothing writes them. -/
  config : Config
  /-- `STAT` (R16). -/
  stat : Stat
  /-- The run in progress, if any (R23). -/
  run : Option Run
  /-- The host's requests not yet taken, in arrival order (R14, R49). -/
  requests : List Request
  /-- The responses emitted, oldest first (R49). -/
  responses : List Response
  /-- The results of the runs that have ended, oldest first (R136). -/
  results : List RunResult
  /-- The streams of the current or the last runs (R31). -/
  streams : Streams
  deriving DecidableEq, Repr

/-- No step of this machine stops with a fault: "no operand value of any operation can make the core fault, hang or produce
an undefined result" (R146). The type has no constructor, so the claim that a step never faults needs no proof. Safe. -/
inductive Fault where
  deriving DecidableEq, Repr

/-- Why a step can be refused. -/
inductive Refusal where
  /-- An instruction without a meaning, raised by its arm of `exec` only. No arm raises it. Safe. -/
  | notModelled (mnemonic : String)
  /-- The host hands over a bit vector that is no command frame, because its length is not the one its opcode fixes (R49, R50,
  R56). The spec gives it no meaning. Raised by `serve` when it takes a request, by no instruction. Safe. -/
  | notACommandFrame (e : DecodeError)
  deriving DecidableEq, Repr

/-- The counters at zero (R25). -/
def Stat.zero : Stat := ⟨0, 0, 0⟩

/-- An input stream with nothing in it. -/
def InStream.empty : InStream := ⟨[], 0⟩

/-- An output stream with nothing written and every write answered `ok`. -/
def OutStream.empty : OutStream := ⟨[], []⟩

/-- No stream handed over yet. -/
def Streams.empty : Streams :=
  ⟨InStream.empty, Vector.replicate 8 InStream.empty, Vector.replicate 8 OutStream.empty, []⟩

/-- The state after power-on of a core with these constants: `STAT = (0, 0, 0)`, no run in progress, no command pending, no
flag held (R25, R167). -/
def State.powerOn (c : Config) : State := ⟨c, Stat.zero, none, [], [], [], Streams.empty⟩

/-- The machine right after reset, with the default constants of R8. -/
def State.reset : State := State.powerOn Config.default

end Sys2Proof.Machine
end

