-- ==== Sys2Proof/Machine/Flags.lean ====
section
/-! DEFINITION. The status field and the outcome codes: which bit each condition sets (spec 30_encoding.md R53, 10_state.md
R22, 60_exceptions.md R146, R149). There is no flag register: a status lives in one response only (R22). -/

namespace Sys2Proof.Machine

/-- Plain success (R53). -/
def statusOk : BitVec 4 := 0x0#4

/-- Status bit 0, `UNC` (R53, R147). -/
def statusUnc : BitVec 4 := 0x1#4

/-- Status bit 1, `PAD_ANOMALY` (R53, R150). -/
def statusPadAnomaly : BitVec 4 := 0x2#4

/-- Status bit 2, `ILLEGAL` (R53, R148). -/
def statusIllegal : BitVec 4 := 0x4#4

/-- Status of a `DEC` response: `UNC` when the decode ended Uncorrectable (R80). -/
def decStatus : DecodeResult → BitVec 4
  | .data _ => statusOk
  | .uncorrectable => statusUnc

/-- Status of a `DECBLK` response: `UNC` when `any_uncorrectable` (R98). -/
def decblkStatus (anyUnc : Bool) : BitVec 4 := if anyUnc then statusUnc else statusOk

/-- Status of an `UNPAD` response: `PAD_ANOMALY` on a malformed pad byte (R110). -/
def unpadStatus (anomaly : Bool) : BitVec 4 := if anomaly then statusPadAnomaly else statusOk

/-- The status of a response, the low 4 bits of its frame (R52). -/
def Response.status : Response → BitVec 4
  | .rn st => st
  | .rw st _ => st
  | .rb st _ => st
  | .rs st _ => st
  | .rp st _ _ => st
  | .rc st _ _ _ => st

/-- The numeric outcome code (R149). -/
def RunOutcome.code : RunOutcome → Nat
  | .success => 0
  | .inputOpenFailure => 1
  | .outputsUnavailable => 2
  | .insufficientInputs => 3
  | .sliceWriteFailure => 4
  | .lossy => 5

/-- "Fatal?" of R149: the run stopped there. -/
def RunOutcome.fatal : RunOutcome → Bool
  | .success => false
  | .inputOpenFailure => true
  | .outputsUnavailable => true
  | .insufficientInputs => true
  | .sliceWriteFailure => true
  | .lossy => false

/-- The outcome of a decode run that met no fatal condition: `LOSSY` if any decoded block was flagged, else `SUCCESS` (R149). -/
def decodeOutcome (lossy : Bool) : RunOutcome := if lossy then .lossy else .success

end Sys2Proof.Machine
end

