-- ==== Sys2Proof/Machine/Operands.lean ====
section
/-! DEFINITION. Operand assembly and result assembly (spec 30_encoding.md R54, R55): what each operation takes from its
command's fields, and what it puts in the fields of its response; and the response frames (R52). -/

namespace Sys2Proof.Machine

/-- `ENC`: "the data word is `x = w[11:0]`"; `w[23:12]` is ignored (R54). -/
def encOperand (w : BitVec 24) : DataWord := w.extractLsb' 0 12

/-- `DECBLK`: slice `k` is present iff `present[k] = 1`, and an absent slice's payload is ignored (R54, R98). -/
def presentSlices (present : BitVec 8) (sl : Slices) : Vector (Option SliceTriple) 8 :=
  Vector.ofFn fun k => if present.getLsbD k.val then some sl[k] else none

/-- `PAD`: the chunk is `[chunk[0], ..., chunk[len-1]]` (R54). -/
def padChunk (len : BitVec 4) (chunk : Block) : List Byte := chunk.toList.take len.toNat

/-- A list of up to 12 bytes as 12 bytes, the missing ones 0 (`out[j]` for `j >= len` of an `UNPAD` response, R55). -/
def blockOfList (l : List Byte) : Block := Vector.ofFn fun j => l.getD j.val 0#8

/-- The first 3 bytes of a list as a slice triple (`r[k]` of R129, handed to `DECBLK`). -/
def tripleOfList (l : List Byte) : SliceTriple := Vector.ofFn fun t => l.getD t.val 0#8

/-- The `w` field of a `DEC` response: `w[11:0]` the data word, `w[23:12]` zero, and all zero when Uncorrectable (R55, R80). -/
def decField : DecodeResult → BitVec 24
  | .data d => d.setWidth 24
  | .uncorrectable => 0#24

/-- The frame of a response (R52). The counters of `RC` are `CNT_W` bits each. -/
def Response.frame (c : Config) : Response → Frame
  | .rn st => ⟨4, st⟩
  | .rw st w => ⟨28, w ++ st⟩
  | .rb st blk => ⟨100, packBlock blk ++ st⟩
  | .rs st sl => ⟨196, packSlices sl ++ st⟩
  | .rp st len out => ⟨104, packBlock out ++ (len ++ st)⟩
  | .rc st p q u =>
    ⟨c.cntW + (c.cntW + (c.cntW + 4)),
      BitVec.ofNat c.cntW u ++ (BitVec.ofNat c.cntW q ++ (BitVec.ofNat c.cntW p ++ st))⟩

end Sys2Proof.Machine
end

