-- ==== Sys2Proof/Machine/Ops.lean ====
section
/-! DEFINITION. The named operations on the state: counters (spec 10_state.md R16 to R18), responding and the conditions
(60_exceptions.md R146 to R156), the stream primitives (20_memory.md R37, R38), ending a run (44_stream_sequencer.md R136,
R137), and the hardware reset (R25, R166). -/

namespace Sys2Proof.Machine

/-! ### Counters -/

/-- Adding the delta of one decode: each counter grows modulo `2^CNT_W` (R17, R80). -/
def Stat.add (c : Config) (st : Stat) (d : Delta) : Stat :=
  ⟨(st.processed + d.processed) % 2 ^ c.cntW, (st.corrected + d.corrected) % 2 ^ c.cntW,
    (st.uncorrectable + d.uncorrectable) % 2 ^ c.cntW⟩

/-- Writing `STAT`. -/
def State.setStat (s : State) (st : Stat) : State := { s with stat := st }

/-- `CLRSTAT`'s effect on the counters: the three become 0 (R118). -/
def State.clearStat (s : State) : State := s.setStat Stat.zero

/-! ### Requests, responses and conditions -/

/-- Emitting a response (R49). -/
def State.respond (s : State) (r : Response) : State := { s with responses := s.responses ++ [r] }

/-- The condition `IllegalCommand`: an RN response whose status is `ILLEGAL`, nothing performed, no state changed (R57, R58,
R148). There is no vector, no saved context and no mode to change (R155), and no return from it (R156). -/
def State.answerIllegal (s : State) : State := s.respond (.rn statusIllegal)

/-- Replacing the queue of requests. -/
def State.setRequests (s : State) (q : List Request) : State := { s with requests := q }

/-! ### Stream primitives -/

/-- `StreamRead(h, n)`: the next `min(n, remaining)` bytes, the cursor advanced by as many (R37). -/
def InStream.read (i : InStream) (n : Nat) : List Byte × InStream :=
  let r := (i.bytes.drop i.cursor).take n
  (r, { i with cursor := i.cursor + r.length })

/-- `StreamWrite(h, bytes)`: all bytes appended and `ok` (`true`), or a prefix of them appended and `fail` (`false`) (R38). -/
def OutStream.write (o : OutStream) (bs : List Byte) : Bool × OutStream :=
  match o.answers with
  | [] => (true, { o with bytes := o.bytes ++ bs })
  | .ok :: rest => (true, ⟨o.bytes ++ bs, rest⟩)
  | .fail n :: rest => (false, ⟨o.bytes ++ bs.take n, rest⟩)

/-- Replacing `SRC`. -/
def State.setSrc (s : State) (i : InStream) : State := { s with streams := { s.streams with src := i } }

/-- Replacing slice input `k`. -/
def State.setSlIn (s : State) (k : Fin 8) (i : InStream) : State :=
  { s with streams := { s.streams with slIn := s.streams.slIn.set k i } }

/-- Replacing slice output `k`. -/
def State.setSlOut (s : State) (k : Fin 8) (o : OutStream) : State :=
  { s with streams := { s.streams with slOut := s.streams.slOut.set k o } }

/-- A write to `OUT`, which never fails (R38). -/
def State.writeOut (s : State) (bs : List Byte) : State :=
  { s with streams := { s.streams with out := s.streams.out ++ bs } }

/-- The streams at the start of an encode run: `SRC` at cursor 0, the eight slice outputs empty (R23, R32). -/
def State.openEncode (s : State) (src : List Byte) (sl : Vector (Option (List WriteAnswer)) 8) : State :=
  { s with streams :=
    { s.streams with src := ⟨src, 0⟩, slOut := Vector.ofFn fun k => ⟨[], sl[k].getD []⟩ } }

/-- The streams at the start of a decode run: the present slice inputs at cursor 0, `OUT` empty (R23, R32). -/
def State.openDecode (s : State) (sl : Vector (Option (List Byte)) 8) : State :=
  { s with streams :=
    { s.streams with slIn := Vector.ofFn fun k => ⟨sl[k].getD [], 0⟩, out := [] } }

/-! ### Runs -/

/-- Replacing the sequencer state. -/
def State.setRun (s : State) (r : Option Run) : State := { s with run := r }

/-- The end of a run: the host gets the result, whose `stats` are the counters at that moment, and the sequencer state is gone
(R23, R136, R137). -/
def State.finish (s : State) (o : RunOutcome) (padAnomaly : Bool) : State :=
  { s with run := none, results := s.results ++ [⟨o, padAnomaly, s.stat⟩] }

/-! ### Hardware reset -/

/-- The effect given to a hardware reset: `STAT` becomes 0, a run in progress is abandoned without a result, no command is
pending; the constants, and what the host already has (responses, results, streams), stay (R25, R166, R167). -/
def State.hardwareReset (s : State) : State := { s with stat := Stat.zero, run := none, requests := [] }

end Sys2Proof.Machine
end

