-- ==== Sys2Proof/Machine/Striper.lean ====
section
/-! DEFINITION. BitStriper (spec 41_striper.md): the four bit mappings (R92, R93, R96, R97) and the two block operations
built on them and on the codec (R94, R98), as pure functions. -/

namespace Sys2Proof.Machine

/-- A buffer of eight zero slice triples: "Output slice buffers must start zeroed" (R19, R171). -/
def zeroSlices : Slices := Vector.replicate 8 (Vector.replicate 3 0#8)

/-- A buffer of twelve zero bytes: "output block buffer starts zeroed per call" (R19, R171). -/
def zeroBlock : Block := Vector.replicate 12 0#8

/-- Plane extraction: bit `i` of block byte `j` becomes bit `j` of the data word (R92). -/
def plane (blk : Block) (i : Nat) : DataWord := ofBits 12 fun j => (byteAt blk j).getLsbD i

/-- Scatter: where codeword bit `3k+t` is 1, bit `i` of byte `t` of slice `k` is set; nothing is ever cleared (R93, R172). -/
def scatter (sl : Slices) (cw : Codeword) (i : Nat) : Slices :=
  Vector.ofFn fun k => Vector.ofFn fun t =>
    if cw.getLsbD (3 * k.val + t.val) then sl[k][t] ||| (1#8 <<< i) else sl[k][t]

/-- `ENCBLK` as a function: for each plane in turn extract, encode, scatter into a zeroed buffer (R94). -/
def encodeBlock (b : GeneratorMatrix) (blk : Block) : Slices :=
  (List.range 8).foldl (fun sl i => scatter sl (encodeWord b (plane blk i)) i) zeroSlices

/-- Gather: bit `i` of byte `t` of every present slice `k` becomes bit `3k+t` of the received word; an absent slice leaves its
three bits 0 (R96). -/
def gather (s : Vector (Option SliceTriple) 8) (i : Nat) : Codeword :=
  ofBits 24 fun p =>
    match s[p / 3]?.getD none with
    | some tr => (byteAt tr (p % 3)).getLsbD i
    | none => false

/-- Deposit: where bit `j` of the data word is 1, bit `i` of block byte `j` is set; nothing is ever cleared (R97, R172). -/
def deposit (out : Block) (d : DataWord) (i : Nat) : Block :=
  Vector.ofFn fun j => if d.getLsbD j.val then out[j] ||| (1#8 <<< i) else out[j]

/-- What `DECBLK` has so far: the output buffer, `any_uncorrectable`, and the counters (R98). -/
structure DecblkAcc where
  out : Block
  anyUnc : Bool
  stat : Stat
  deriving DecidableEq, Repr

/-- One plane of `DECBLK`: gather, decode, count, and deposit the data or flag the block (R98). -/
def decodePlane (c : Config) (s : Vector (Option SliceTriple) 8) (acc : DecblkAcc) (i : Nat) : DecblkAcc :=
  match decodeWord c.b (gather s i) with
  | (.data d, dl) => ⟨deposit acc.out d i, acc.anyUnc, acc.stat.add c dl⟩
  | (.uncorrectable, dl) => ⟨acc.out, true, acc.stat.add c dl⟩

/-- `DECBLK` as a function, from the counters before it: the eight planes in turn into a zeroed buffer (R98). -/
def decodeBlock (c : Config) (st : Stat) (s : Vector (Option SliceTriple) 8) : DecblkAcc :=
  (List.range 8).foldl (decodePlane c s) ⟨zeroBlock, false, st⟩

end Sys2Proof.Machine
end

