-- ==== Sys2Proof/Machine/BlockOps.lean ====
section
/-! DEFINITION. The meanings of the block operations `ENCBLK` and `DECBLK` (spec 41_striper.md R94, R98). -/

namespace Sys2Proof.Machine

/-- `ENCBLK` (R94): the eight slice triples of the block; no state is written but the response. -/
def execEncblk (blk : Block) (s : State) : Host.Outcome State Fault Refusal :=
  .next (s.respond (.rs statusOk (encodeBlock s.config.b blk)))

/-- `DECBLK` (R98), for every present mask (R101): the decoded block, `UNC` if any plane was Uncorrectable, eight decodes
counted. -/
def execDecblk (present : BitVec 8) (sl : Slices) (s : State) : Host.Outcome State Fault Refusal :=
  let acc := decodeBlock s.config s.stat (presentSlices present sl)
  .next ((s.setStat acc.stat).respond (.rb (decblkStatus acc.anyUnc) acc.out))

end Sys2Proof.Machine
end

