-- ==== Sys2Proof/Machine/Codec.lean ====
section
/-! DEFINITION. The meanings of the word operations `ENC` and `DEC` (spec 40_codec.md R74, R80). -/

namespace Sys2Proof.Machine

/-- `ENC` (R74): the codeword of `w[11:0]`; no state is written but the response. -/
def execEnc (w : BitVec 24) (s : State) : Host.Outcome State Fault Refusal :=
  .next (s.respond (.rw statusOk (encodeWord s.config.b (encOperand w))))

/-- `DEC` (R80): decode the received word, add the delta to the counters, answer the data word or `UNC`. -/
def execDec (w : BitVec 24) (s : State) : Host.Outcome State Fault Refusal :=
  let (res, dl) := decodeWord s.config.b w
  .next ((s.setStat (s.stat.add s.config dl)).respond (.rw (decStatus res) (decField res)))

end Sys2Proof.Machine
end

