-- ==== Sys2Proof/Machine/Padding.lean ====
section
/-! DEFINITION. PaddingScheme: the pure functions `pad` and `unpad` (spec 42_padding.md R107, R109) and the meanings of `PAD`
and `UNPAD` (R108, R110). -/

namespace Sys2Proof.Machine

/-- `pad(ch)`, for a chunk of 0 to 11 bytes: `p = 12 - len(ch)` copies of the byte value `p` after the real bytes (R107). -/
def pad (ch : List Byte) : Block :=
  blockOfList (ch ++ List.replicate (12 - ch.length) (BitVec.ofNat 8 (12 - ch.length)))

/-- `unpad(b)`: the bytes kept, and whether the last byte is out of 1..12 (R109). Only the last byte is examined. -/
def unpad (b : Block) : List Byte × Bool :=
  let p := (byteAt b 11).toNat
  if p < 1 ∨ p > 12 then (b.toList, true) else (b.toList.take (12 - p), false)

/-- `PAD` (R108): `ILLEGAL` for `len` in 12..15, else the padded block. -/
def execPad (len : BitVec 4) (chunk : Block) (s : State) : Host.Outcome State Fault Refusal :=
  if padLenLegal len then .next (s.respond (.rb statusOk (pad (padChunk len chunk))))
  else .next s.answerIllegal

/-- `UNPAD` (R110): the bytes kept, their number, and `PAD_ANOMALY` on a malformed pad byte. -/
def execUnpad (blk : Block) (s : State) : Host.Outcome State Fault Refusal :=
  let (bytes, anomaly) := unpad blk
  .next (s.respond (.rp (unpadStatus anomaly) (BitVec.ofNat 4 bytes.length) (blockOfList bytes)))

end Sys2Proof.Machine
end

