-- ==== Sys2Proof/Machine/Reserved.lean ====
section
/-! DEFINITION. The meanings of the eight reserved opcodes (spec 30_encoding.md R57): each is answered `ILLEGAL`, performs
nothing and changes no state. -/

namespace Sys2Proof.Machine

/-- Opcode 0x0 (R57). -/
def execReserved0 (s : State) : Host.Outcome State Fault Refusal := .next s.answerIllegal

/-- Opcode 0x9 (R57). -/
def execReserved9 (s : State) : Host.Outcome State Fault Refusal := .next s.answerIllegal

/-- Opcode 0xA (R57). -/
def execReservedA (s : State) : Host.Outcome State Fault Refusal := .next s.answerIllegal

/-- Opcode 0xB (R57). -/
def execReservedB (s : State) : Host.Outcome State Fault Refusal := .next s.answerIllegal

/-- Opcode 0xC (R57). -/
def execReservedC (s : State) : Host.Outcome State Fault Refusal := .next s.answerIllegal

/-- Opcode 0xD (R57). -/
def execReservedD (s : State) : Host.Outcome State Fault Refusal := .next s.answerIllegal

/-- Opcode 0xE (R57). -/
def execReservedE (s : State) : Host.Outcome State Fault Refusal := .next s.answerIllegal

/-- Opcode 0xF (R57). -/
def execReservedF (s : State) : Host.Outcome State Fault Refusal := .next s.answerIllegal

end Sys2Proof.Machine
end

