-- ==== Sys2Proof/Machine/Statistics.lean ====
section
/-! DEFINITION. The meanings of the statistics operations `RDSTAT` and `CLRSTAT` (spec 43_statistics.md R117, R118). -/

namespace Sys2Proof.Machine

/-- `RDSTAT` (R117): the three counters; reading does not clear. -/
def execRdstat (s : State) : Host.Outcome State Fault Refusal :=
  .next (s.respond (.rc statusOk s.stat.processed s.stat.corrected s.stat.uncorrectable))

/-- `CLRSTAT` (R118): the three counters become 0. -/
def execClrstat (s : State) : Host.Outcome State Fault Refusal :=
  .next (s.clearStat.respond (.rn statusOk))

end Sys2Proof.Machine
end

