-- ==== Sys2Proof/Machine/Sequencer.lean ====
section
/-! DEFINITION. The stream sequencer: the procedures `ENCODE_STREAM` and `DECODE_STREAM` (spec 44_stream_sequencer.md R123 to
R137), cut at the stream accesses: one step makes at most one stream read or write (20_memory.md R40, R41). -/

namespace Sys2Proof.Machine

/-! ### Encode run -/

/-- `ENCODE_STREAM` part 1 (R124): clear the counters; then the source must be there, then all eight slice outputs; on a failed
precondition the run ends before any stream is touched. -/
def startEncode (src : Option (List Byte)) (sl : Vector (Option (List WriteAnswer)) 8) (s : State) : State :=
  let s := s.clearStat
  match src with
  | none => s.finish .inputOpenFailure false
  | some bytes =>
    if sl.toList.all Option.isSome then
      (s.openEncode bytes sl).setRun (some (.encode ⟨.read, false⟩))
    else s.finish .outputsUnavailable false

/-- The head of an encode iteration (R125): read up to 12 bytes; a short read is padded and makes this iteration the terminal
one; the block is encoded, and slice 0 is written next. -/
def encodeRead (s : State) : State :=
  let (ch, src) := s.streams.src.read 12
  let terminal := decide (ch.length < 12)
  let blk := if terminal then pad ch else blockOfList ch
  (s.setSrc src).setRun (some (.encode ⟨.write 0 (encodeBlock s.config.b blk), terminal⟩))

/-- One slice write of an encode iteration (R125, R126): a failing write ends the run; after slice 7 the terminal iteration ends
it, any other goes on with the next read. -/
def encodeWrite (k : Fin 8) (sl : Slices) (terminal : Bool) (s : State) : State :=
  let (ok, o) := s.streams.slOut[k].write sl[k].toList
  let s := s.setSlOut k o
  if ok then
    if h : k.val + 1 < 8 then s.setRun (some (.encode ⟨.write ⟨k.val + 1, h⟩ sl, terminal⟩))
    else if terminal then s.setRun (some (.encode ⟨.done .success, terminal⟩))
    else s.setRun (some (.encode ⟨.read, terminal⟩))
  else s.setRun (some (.encode ⟨.done .sliceWriteFailure, terminal⟩))

/-- One step of an encode run. -/
def stepEncode (r : EncodeRun) (s : State) : State :=
  match r.phase with
  | .read => encodeRead s
  | .write k sl => encodeWrite k sl r.terminal s
  | .done o => s.finish o false

/-! ### Decode run -/

/-- No bytes read yet in this iteration. -/
def nothingRead : Vector (List Byte) 8 := Vector.replicate 8 []

/-- The present mask: bit `k` says whether the host has slice `k` (R128). -/
def presentMask (sl : Vector (Option (List Byte)) 8) : BitVec 8 :=
  ofBits 8 fun k => (sl[k]?.getD none).isSome

/-- `DECODE_STREAM` part 1 (R128): clear the counters; at least 7 slices must be present, or the run ends before any stream is
touched; `prev`, `lossy` and `pad_anomaly` start as R23 says. -/
def startDecode (sl : Vector (Option (List Byte)) 8) (s : State) : State :=
  let s := s.clearStat
  let present := presentMask sl
  if popcount present < 7 then s.finish .insufficientInputs false
  else
    (s.openDecode sl).setRun (some (.decode
      { phase := .read 0, present := present, got := nothingRead, prev := none, lossy := false, padAnomaly := false,
        terminal := false }))

/-- Where a decode iteration goes after slice `k` (R41, R129). -/
def afterRead (k : Fin 8) : DecodePhase := if h : k.val + 1 < 8 then .read ⟨k.val + 1, h⟩ else .block

/-- One slice read of a decode iteration (R129): 3 bytes of slice `k` if it is present; a short read makes the iteration the
terminal one, and the other slices are read all the same. -/
def decodeRead (r : DecodeRun) (k : Fin 8) (s : State) : State :=
  if r.present.getLsbD k.val then
    let (bs, i) := s.streams.slIn[k].read 3
    (s.setSlIn k i).setRun (some (.decode
      { r with phase := afterRead k, got := r.got.set k bs, terminal := r.terminal || decide (bs.length < 3) }))
  else s.setRun (some (.decode { r with phase := afterRead k }))

/-- The terminal iteration (R130, R131): nothing is decoded, the bytes read are discarded, and the block held in arrears, if
any, is unpadded and written. -/
def decodeLast (r : DecodeRun) (s : State) : State :=
  match r.prev with
  | some b =>
    let (bytes, anomaly) := unpad b
    (s.writeOut bytes).setRun (some (.decode { r with phase := .done, padAnomaly := anomaly }))
  | none => s.setRun (some (.decode { r with phase := .done }))

/-- The slices of this iteration as `DECBLK` takes them (R129). -/
def gotSlices (r : DecodeRun) : Slices := Vector.ofFn fun k => tripleOfList r.got[k]

/-- Any other iteration (R129, R131, R132): the block is decoded and counted, the block held before it is written as it is, and
the new one is held in its place. -/
def decodeNext (r : DecodeRun) (s : State) : State :=
  let acc := decodeBlock s.config s.stat (presentSlices r.present (gotSlices r))
  let s := s.setStat acc.stat
  let s := match r.prev with
    | some b => s.writeOut b.toList
    | none => s
  s.setRun (some (.decode
    { r with phase := .read 0, got := nothingRead, prev := some acc.out, lossy := r.lossy || acc.anyUnc }))

/-- One step of a decode run. -/
def stepDecode (r : DecodeRun) (s : State) : State :=
  match r.phase with
  | .read k => decodeRead r k s
  | .block => if r.terminal then decodeLast r s else decodeNext r s
  | .done => s.finish (decodeOutcome r.lossy) r.padAnomaly

/-- One step of the run in progress. -/
def stepRun (r : Run) (s : State) : State :=
  match r with
  | .encode r => stepEncode r s
  | .decode r => stepDecode r s

end Sys2Proof.Machine
end

