-- ==== Sys2Proof/Machine/Fetch.lean ====
section
/-! DEFINITION. Taking the host's next request (spec 30_encoding.md R49, R56; 44_stream_sequencer.md R123). The core fetches no
instructions and has no program counter (10_state.md R21): the order of operations is the order of the requests. -/

namespace Sys2Proof.Machine

/-- Performing a command frame: decode it and run the command (R49, R56). -/
def serveFrame (f : Frame) (s : State) : Host.Outcome State Fault Refusal :=
  match decodeFrame f with
  | .ok i => exec i s
  | .error e => .refused (.notACommandFrame e)

/-- Performing one request, already taken off the queue. -/
def serve (q : Request) (s : State) : Host.Outcome State Fault Refusal :=
  match q with
  | .command f => serveFrame f s
  | .encodeRun src sl => .next (startEncode src sl s)
  | .decodeRun sl => .next (startDecode sl s)

/-- A core with no run in progress whose next request is this frame. -/
def State.placeFrame (s : State) (f : Frame) : State :=
  { s with run := none, requests := .command f :: s.requests }

end Sys2Proof.Machine
end

