-- ==== Sys2Proof/Machine/Step.lean ====
section
/-! DEFINITION. One step of the core (spec 10_state.md R14, 20_memory.md R40, R43): the next stream access of the run in
progress; with no run in progress, the host's next request; with no request either, the core waits (70_reset_and_hazards.md
R166). -/

namespace Sys2Proof.Machine

/-- One step. A run is performed to its end before the next request is taken (R14, R49). -/
def step (s : State) : Host.Outcome State Fault Refusal :=
  match s.run with
  | some r => .next (stepRun r s)
  | none =>
    match s.requests with
    | [] => .next s
    | q :: rest => serve q (s.setRequests rest)

/-- `s` with the frame of a table word as the host's next request, and no run in progress before it. -/
def State.withFetchWord (s : State) (nbits w : Nat) : State := s.placeFrame (frameOfTableWord nbits w)

end Sys2Proof.Machine
end

