-- ==== Sys2Proof/Safety.lean ====
section
/-! DEFINITION. What a legal state of the core is, in the terms the claims use: counters that fit their width (spec
10_state.md R16, R17), cursors inside their streams (20_memory.md R32), and a sequencer state the procedures of
44_stream_sequencer.md R125 and R129 can be in. -/

namespace Sys2Proof.Machine

/-- Every counter fits `CNT_W` bits (R16). -/
structure Stat.Bounded (c : Config) (st : Stat) : Prop where
  processed : st.processed < 2 ^ c.cntW
  corrected : st.corrected < 2 ^ c.cntW
  uncorrectable : st.uncorrectable < 2 ^ c.cntW

/-- The cursor has not passed the end of its stream (R32, R37). -/
def InStream.Legal (i : InStream) : Prop := i.cursor ≤ i.bytes.length

/-- An encode run as R125 can leave it: a read is never due in the terminal iteration, and the run returns `SUCCESS` only from
the terminal iteration, `SLICE_WRITE_FAILURE` after a failing write, and nothing else. -/
def EncodeRun.Legal (r : EncodeRun) : Prop :=
  match r.phase with
  | .read => r.terminal = false
  | .write _ _ => True
  | .done o => (o = .success ∧ r.terminal = true) ∨ o = .sliceWriteFailure

/-- How many slices of this iteration the decode run has passed (R41). -/
def DecodePhase.slicesPassed : DecodePhase → Nat
  | .read k => k.val
  | .block => 8
  | .done => 8

/-- A decode run as R128 and R129 can leave it: at least 7 slices are present; no read gave more than 3 bytes; the iteration is
terminal exactly when a present slice already read was short (R130); the run ends only from a terminal iteration, and only
there is the pad anomaly known. -/
structure DecodeRun.Legal (r : DecodeRun) : Prop where
  enough : 7 ≤ popcount r.present
  width : ∀ k : Fin 8, r.got[k].length ≤ 3
  terminalIff : r.terminal = true ↔
    ∃ k : Fin 8, k.val < r.phase.slicesPassed ∧ r.present.getLsbD k.val = true ∧ r.got[k].length < 3
  doneTerminal : r.phase = .done → r.terminal = true
  anomalyDone : r.padAnomaly = true → r.phase = .done

/-- The sequencer state is legal. -/
def Run.Legal : Run → Prop
  | .encode r => r.Legal
  | .decode r => r.Legal

/-- A legal state of the core. -/
structure State.Inv (s : State) : Prop where
  stat : s.stat.Bounded s.config
  src : s.streams.src.Legal
  slIn : ∀ k : Fin 8, s.streams.slIn[k].Legal
  run : ∀ r, s.run = some r → r.Legal

/-- `k` steps of the machine, stopping at the first fault or refusal. -/
abbrev runSteps (n : Nat) (s : State) : Host.Outcome State Fault Refusal := Host.Core.run Sys2Proof.core n s

/-- `n` steps from `s` all go on, and lead to `t`. -/
def Reaches (n : Nat) (s t : State) : Prop := runSteps n s = .next t

end Sys2Proof.Machine
end

