-- ==== Sys2Proof/Certificates/Slice0/Obligations.lean ====
section
/-! DEFINITION. The statements for the provers. Each docstring says which rule of the spec it formalises; where the spec marks
the sentence as its own derivation, the docstring says so and OBLIGATIONS.json gives it the basis 'derived'. -/

open Sys2Proof Sys2Proof.Machine

namespace Sys2Proof.Claims

/-- Each operand field of `i` stands in `f` at its place of the format table (R50): `w` at bits 27:4; `blk[j]` in the 8 bits from
`4+8j`; `present` at 11:4 and `sl[k][t]` in the 8 bits from `12+8(3k+t)`; `len` at 7:4 and `chunk[j]` in the 8 bits from
`8+8j`. -/
def FieldsInPlace (f : Frame) : Instr → Prop
  | .enc w => f.bits.extractLsb' 4 24 = w
  | .dec w => f.bits.extractLsb' 4 24 = w
  | .encblk blk => ∀ j : Fin 12, f.bits.extractLsb' (4 + 8 * j.val) 8 = blk[j]
  | .decblk present sl => f.bits.extractLsb' 4 8 = present ∧
      ∀ (k : Fin 8) (t : Fin 3), f.bits.extractLsb' (12 + 8 * (3 * k.val + t.val)) 8 = sl[k][t]
  | .pad len chunk => f.bits.extractLsb' 4 4 = len ∧ ∀ j : Fin 12, f.bits.extractLsb' (8 + 8 * j.val) 8 = chunk[j]
  | .unpad blk => ∀ j : Fin 12, f.bits.extractLsb' (4 + 8 * j.val) 8 = blk[j]
  | .rdstat => True
  | .clrstat => True
  | .reserved0 => True
  | .reserved9 => True
  | .reservedA => True
  | .reservedB => True
  | .reservedC => True
  | .reservedD => True
  | .reservedE => True
  | .reservedF => True

/-- The frame that spells `i` has this length, carries this opcode in its low 4 bits and every operand field at its place, and is
read back as `i`. -/
def SpelledBy (i : Instr) (op : BitVec 4) (len : Nat) : Prop :=
  (encode i).len = len ∧ (encode i).bits.extractLsb' 0 4 = op ∧ FieldsInPlace (encode i) i ∧
    decodeFrame (encode i) = .ok i

/-- The state that differs from `s` in one more response. -/
def answered (s : State) (r : Response) : State := { s with responses := s.responses ++ [r] }

/-- The state that differs from `s` in one more response and in counters that have grown by `(dp, dc, du)` modulo
`2^CNT_W` (R17). -/
def counted (s : State) (dp dc du : Nat) (r : Response) : State :=
  { s with
    stat := ⟨(s.stat.processed + dp) % 2 ^ s.config.cntW, (s.stat.corrected + dc) % 2 ^ s.config.cntW,
      (s.stat.uncorrectable + du) % 2 ^ s.config.cntW⟩
    responses := s.responses ++ [r] }

/-- Row `i` is within distance 2 of `v` and no earlier row is: the first match of stages 4 and 6 (R77, R82). -/
def FirstNear (b : GeneratorMatrix) (v : DataWord) (i : Fin 12) : Prop :=
  popcount (v ^^^ b[i]) ≤ 2 ∧ ∀ j : Fin 12, j < i → 2 < popcount (v ^^^ b[j])

/-- No row is within distance 2 of `v`. -/
def NoneNear (b : GeneratorMatrix) (v : DataWord) : Prop := ∀ j : Fin 12, 2 < popcount (v ^^^ b[j])

/-- The received word of plane `i`: bit `3k+t` is bit `i` of byte `t` of slice `k`, and 0 where slice `k` is absent (R96). -/
def received (present : BitVec 8) (sl : Slices) (i : Nat) : Codeword :=
  ofBits 24 fun p => present.getLsbD (p / 3) && (sliceByte sl (p / 3) (p % 3)).getLsbD i

/-- How many of the eight planes satisfy `f`. -/
def planesWith (f : Nat → Bool) : Nat := (List.range 8).countP f

/-- The instructions that may write `STAT` (R119). -/
def writesStat : Instr → Bool
  | .dec _ => true
  | .decblk _ _ => true
  | .clrstat => true
  | .enc _ => false
  | .encblk _ => false
  | .pad _ _ => false
  | .unpad _ => false
  | .rdstat => false
  | .reserved0 => false
  | .reserved9 => false
  | .reservedA => false
  | .reservedB => false
  | .reservedC => false
  | .reservedD => false
  | .reservedE => false
  | .reservedF => false

/-- The stage of R77 that ends the decode of `c`. -/
def stageOf (b : GeneratorMatrix) (c : Codeword) : Nat :=
  let s := syndrome b c
  if popcount s ≤ 3 then 3
  else if (firstNearRow b s).isSome then 4
  else if popcount (chk b s) ≤ 3 then 5
  else if (firstNearRow b (chk b s)).isSome then 6
  else 7

/-- The all-present mask with slice `k` taken out. -/
def allBut (k : Fin 8) : BitVec 8 := 0xFF#8 ^^^ (1#8 <<< k.val)

/-- Some codeword bit that slice `k` carries is 1. -/
def sliceTouches (cw : Codeword) (k : Fin 8) : Bool :=
  cw.getLsbD (3 * k.val) || cw.getLsbD (3 * k.val + 1) || cw.getLsbD (3 * k.val + 2)

/-- A plaintext followed by its padding: `p = 12 - (L mod 12)` bytes of value `p` (R106). -/
def padded (pt : List Byte) : List Byte :=
  pt ++ List.replicate (12 - pt.length % 12) (BitVec.ofNat 8 (12 - pt.length % 12))

/-- How many blocks a plaintext of this length becomes (R39, R106). -/
def blocksOf (pt : List Byte) : Nat := pt.length / 12 + 1

/-- Block `m` of a padded plaintext. -/
def blockOf (pt : List Byte) (m : Nat) : Block := blockOfList (((padded pt).drop (12 * m)).take 12)

/-- Eight open slice outputs whose writes all succeed. -/
def AllOpen (sl : Vector (Option (List WriteAnswer)) 8) : Prop :=
  ∀ k : Fin 8, ∃ a, sl[k] = some a ∧ ∀ x ∈ a, x = WriteAnswer.ok

/-- How many slice inputs the host has. -/
def presentCount (sl : Vector (Option (List Byte)) 8) : Nat :=
  (List.finRange 8).countP fun k => sl[k].isSome

/-- What slice `j` holds of these blocks: its triples, one after the other. -/
def sliceOf (blocks : List Slices) (j : Fin 8) : List Byte := blocks.flatMap fun sl => sl[j].toList

/-- In an encode run all slices hold the triples of the same `blocks`; the slices before the next one to be written hold their
triple of `cur` too, and after a failing write at slice `k` those before `k` do, and slice `k` holds a prefix of its triple
(R40, R126). -/
def SlicesLevel (s : State) (blocks : List Slices) (cur : Slices) : Prop :=
  match s.run with
  | some (.encode ⟨.read, _⟩) => ∀ j : Fin 8, s.streams.slOut[j].bytes = sliceOf blocks j
  | some (.encode ⟨.write k sl, _⟩) => sl = cur ∧
    ∀ j : Fin 8, s.streams.slOut[j].bytes = sliceOf blocks j ++ if j < k then cur[j].toList else []
  | some (.encode ⟨.done .success, _⟩) => ∀ j : Fin 8, s.streams.slOut[j].bytes = sliceOf blocks j
  | some (.encode ⟨.done _, _⟩) =>
    ∃ (k : Fin 8) (n : Nat), ∀ j : Fin 8,
      s.streams.slOut[j].bytes =
        sliceOf blocks j ++ if j < k then cur[j].toList else if j = k then cur[j].toList.take n else []
  | _ => True

/-- The `n`-th triple of every slice the host has. -/
def triplesAt (sl : Vector (Option (List Byte)) 8) (n : Nat) : Vector (Option SliceTriple) 8 :=
  sl.map (Option.map fun bytes => Vector.ofFn fun t : Fin 3 => bytes.getD (3 * n + t.val) 0#8)

/-- The counters, the lossy flag and the blocks after some non-terminal iterations. -/
structure Decoded where
  stat : Stat
  lossy : Bool
  blocks : List Block
  deriving DecidableEq, Repr

/-- The first `m` iterations of a decode run over these slices: iteration `n` is `DECBLK` of the `n`-th triples, from the counters
the one before left (R129, R132). -/
def decodedBlocks (c : Config) (sl : Vector (Option (List Byte)) 8) : Nat → Decoded
  | 0 => ⟨⟨0, 0, 0⟩, false, []⟩
  | n + 1 =>
    let d := decodedBlocks c sl n
    let acc := decodeBlock c d.stat (triplesAt sl n)
    ⟨acc.stat, d.lossy || acc.anyUnc, d.blocks ++ [acc.out]⟩

/-- What a decode run writes of its blocks, and its pad anomaly: every block but the last as it is, the last through `unpad`
(R131). -/
def writtenOut (blocks : List Block) : List Byte × Bool :=
  match blocks.getLast? with
  | none => ([], false)
  | some b => (blocks.dropLast.flatMap (fun x => x.toList) ++ (unpad b).1, (unpad b).2)

/-- In a decode run the `lossy` flag says whether a codeword has been counted uncorrectable (R132). -/
def LossyTracks (s : State) : Prop :=
  ∀ r, s.run = some (.decode r) → (r.lossy = true ↔ 0 < s.stat.uncorrectable)

end Sys2Proof.Claims

open Sys2Proof.Claims

/-! ### Encoding -/

/-- Decoding the frame of a command gives the command back, with every operand field at every value (30_encoding.md section 2,
R50, R51). -/
def Obligations.DecodeOfEncode : Prop := ∀ i : Instr, decodeFrame (encode i) = .ok i

/-- A frame spells one command only: whatever decodes to `i` is the frame of `i`, so no bit of a frame is dropped
(30_encoding.md section 2). -/
def Obligations.EncodeOfDecode : Prop := ∀ (f : Frame) (i : Instr), decodeFrame f = .ok i → encode i = f

/-- R56, with the opcode map of R51: the frames are of 4, 28, 100, 104 or 204 bits, and the opcode alone fixes which. Every bit
vector of the length its opcode fixes is a command, reserved opcodes (4 bits) included. That no other bit vector is one is the
model's reading of R49, where a command is one frame whose length its opcode fixes (log 5). -/
def Obligations.FrameLengthFixedByOpcode : Prop :=
  ∀ f : Frame, (∃ i, decodeFrame f = .ok i) ↔
    let op := (f.bits.extractLsb' 0 4).toNat
    (f.len = 28 ∧ (op = 1 ∨ op = 2)) ∨ (f.len = 100 ∧ (op = 3 ∨ op = 6)) ∨ (f.len = 204 ∧ op = 4) ∨
      (f.len = 104 ∧ op = 5) ∨ (f.len = 4 ∧ (op = 0 ∨ 7 ≤ op))

/-- Frames printed in 95_test_vectors.md V8 decode to the commands they stand for there. -/
def Obligations.FramesOfTheSpecDecode : Prop :=
  decodeFrame ⟨28, 0x5A5ABC1#28⟩ = .ok (.enc 0x5A5ABC#24) ∧
  decodeFrame ⟨28, 0xBBDBB32#28⟩ = .ok (.dec 0xBBDBB3#24) ∧
  decodeFrame ⟨100, 0x646C726F57202C6F6C6C65483#100⟩ =
    .ok (.encblk #v[0x48, 0x65, 0x6C, 0x6C, 0x6F, 0x2C, 0x20, 0x57, 0x6F, 0x72, 0x6C, 0x64]) ∧
  decodeFrame ⟨204, 0x646C726F57200000006C6548346F5F1E06314E2233526844DF4#204⟩ =
    .ok (.decblk 0xDF#8 #v[#v[0x44, 0x68, 0x52], #v[0x33, 0x22, 0x4E], #v[0x31, 0x06, 0x1E], #v[0x5F, 0x6F, 0x34],
      #v[0x48, 0x65, 0x6C], #v[0x00, 0x00, 0x00], #v[0x20, 0x57, 0x6F], #v[0x72, 0x6C, 0x64]]) ∧
  decodeFrame ⟨104, 0x00000000000000000000004D15#104⟩ =
    .ok (.pad 0x1#4 #v[0x4D, 0, 0, 0, 0, 0, 0, 0, 0, 0, 0, 0]) ∧
  decodeFrame ⟨100, 0x4C4B4A4948474645444342416#100⟩ =
    .ok (.unpad #v[0x41, 0x42, 0x43, 0x44, 0x45, 0x46, 0x47, 0x48, 0x49, 0x4A, 0x4B, 0x4C]) ∧
  decodeFrame ⟨4, 0x7#4⟩ = .ok .rdstat ∧ decodeFrame ⟨4, 0x8#4⟩ = .ok .clrstat ∧
  decodeFrame ⟨4, 0x0#4⟩ = .ok .reserved0 ∧ decodeFrame ⟨4, 0xF#4⟩ = .ok .reservedF

/-- R52: the layout of each response frame, its length, its status in the low 4 bits and its fields above them. Each counter of
`RC` stands modulo `2^CNT_W` in its `CNT_W` bits. -/
def Obligations.ResponseFrameLayout : Prop :=
  ∀ c : Config,
    (∀ r : Response, (r.frame c).bits.extractLsb' 0 4 = r.status) ∧
    (∀ st, ((Response.rn st).frame c).len = 4) ∧
    (∀ st w, ((Response.rw st w).frame c).len = 28 ∧ ((Response.rw st w).frame c).bits.extractLsb' 4 24 = w) ∧
    (∀ st blk, ((Response.rb st blk).frame c).len = 100 ∧
      ∀ j : Fin 12, ((Response.rb st blk).frame c).bits.extractLsb' (4 + 8 * j.val) 8 = blk[j]) ∧
    (∀ st sl, ((Response.rs st sl).frame c).len = 196 ∧
      ∀ (k : Fin 8) (t : Fin 3),
        ((Response.rs st sl).frame c).bits.extractLsb' (4 + 8 * (3 * k.val + t.val)) 8 = sl[k][t]) ∧
    (∀ st len out, ((Response.rp st len out).frame c).len = 104 ∧
      ((Response.rp st len out).frame c).bits.extractLsb' 4 4 = len ∧
      ∀ j : Fin 12, ((Response.rp st len out).frame c).bits.extractLsb' (8 + 8 * j.val) 8 = out[j]) ∧
    (∀ st p q u, ((Response.rc st p q u).frame c).len = 4 + 3 * c.cntW ∧
      ((Response.rc st p q u).frame c).bits.extractLsb' 4 c.cntW = BitVec.ofNat c.cntW p ∧
      ((Response.rc st p q u).frame c).bits.extractLsb' (4 + c.cntW) c.cntW = BitVec.ofNat c.cntW q ∧
      ((Response.rc st p q u).frame c).bits.extractLsb' (4 + 2 * c.cntW) c.cntW = BitVec.ofNat c.cntW u)

/-! ### Commands -/

/-- A step with no run in progress and a command frame first among the requests takes that request off the queue and is the
meaning of the command the frame decodes to; the step adds nothing else around it (R49; there is no program counter to move,
R21). -/
def Obligations.StepRunsDecodedCommand : Prop :=
  ∀ (s : State) (f : Frame) (rest : List Request) (i : Instr),
    s.run = none → s.requests = .command f :: rest → decodeFrame f = .ok i →
      step s = exec i { s with requests := rest }

/-- R146: no condition and no operand value stops the core. A step goes on from every state, but for one: no run is in progress
and the host's next request is a bit vector that is no command frame, which the model refuses under its own name (log 5). -/
def Obligations.StepStopsOnlyOnNonFrames : Prop :=
  ∀ s : State,
    (∃ t, step s = .next t) ∨
    ∃ f rest e, s.run = none ∧ s.requests = .command f :: rest ∧ decodeFrame f = .error e ∧
      step s = .refused (.notACommandFrame e)

/-- R49, R119 and the frame of every command: each command goes on to a next state, with exactly one more response, and with
the constants, the requests, the sequencer state, the run results and every stream as they were; only `DEC`, `DECBLK` and
`CLRSTAT` may write `STAT`. -/
def Obligations.EveryCommandAnswersOnce : Prop :=
  ∀ (i : Instr) (s : State), ∃ st r,
    exec i s = .next { s with stat := st, responses := s.responses ++ [r] } ∧ (writesStat i = false → st = s.stat)

/-- R74 (with R72): `ENC` answers the codeword whose data bits are `w[11:0]` and whose checksum bit `11-i` is the parity of
`x AND B[i]`, with status 0, and writes nothing else. -/
def Obligations.EncAnswersCodeword : Prop :=
  ∀ (s : State) (w : BitVec 24),
    SpelledBy (.enc w) 0x1#4 28 ∧
    ∃ cw : Codeword,
      exec (.enc w) s = .next (answered s (.rw 0#4 cw)) ∧
      cw.extractLsb' 12 12 = w.extractLsb' 0 12 ∧
      ∀ i : Fin 12, cw.getLsbD (11 - i.val) = parity ((w.extractLsb' 0 12 : DataWord) &&& s.config.b[i])

/-- R80 with R77: `DEC`, stage by stage, with the thresholds 3, 2, 3, 2 and the ascending first match, the counters' growth and
the response of each case. -/
def Obligations.DecFollowsStages : Prop :=
  ∀ (s : State) (w : BitVec 24),
    SpelledBy (.dec w) 0x2#4 28 ∧
    let b := s.config.b
    let rd : DataWord := w.extractLsb' 12 12
    let syn : DataWord := chk b rd ^^^ w.extractLsb' 0 12
    let inv := chk b syn
    (popcount syn ≤ 3 →
      exec (.dec w) s =
        .next (counted s 1 (if popcount syn = 0 then 0 else 1) 0 (.rw 0#4 (rd.setWidth 24)))) ∧
    (∀ i : Fin 12, 3 < popcount syn → FirstNear b syn i →
      exec (.dec w) s = .next (counted s 1 1 0 (.rw 0#4 ((rd ^^^ (1#12 <<< (11 - i.val))).setWidth 24)))) ∧
    (3 < popcount syn → NoneNear b syn → popcount inv ≤ 3 →
      exec (.dec w) s = .next (counted s 1 1 0 (.rw 0#4 ((rd ^^^ inv).setWidth 24)))) ∧
    (∀ i : Fin 12, 3 < popcount syn → NoneNear b syn → 3 < popcount inv → FirstNear b inv i →
      exec (.dec w) s = .next (counted s 1 1 0 (.rw 0#4 ((rd ^^^ inv ^^^ b[i]).setWidth 24)))) ∧
    (3 < popcount syn → NoneNear b syn → 3 < popcount inv → NoneNear b inv →
      exec (.dec w) s = .next (counted s 1 0 1 (.rw 0x1#4 0#24)))

/-- R94 (with R92, R93): `ENCBLK` answers slices in which bit `i` of byte `t` of slice `k` is bit `3k+t` of the codeword of plane
`i`, whose data bit `j` is bit `i` of block byte `j` and whose checksum bit `11-r` is the parity with row `r`; status 0,
nothing else written. -/
def Obligations.EncblkScattersCodewords : Prop :=
  ∀ (s : State) (blk : Block),
    SpelledBy (.encblk blk) 0x3#4 100 ∧
    ∃ (sl : Slices) (cw : Nat → Codeword),
      exec (.encblk blk) s = .next (answered s (.rs 0#4 sl)) ∧
      ∀ i < 8,
        (∀ j : Fin 12, (cw i).getLsbD (12 + j.val) = blk[j].getLsbD i) ∧
        (∀ r : Fin 12, (cw i).getLsbD (11 - r.val) =
          parity (((cw i).extractLsb' 12 12 : DataWord) &&& s.config.b[r])) ∧
        ∀ (k : Fin 8) (t : Fin 3), sl[k][t].getLsbD i = (cw i).getLsbD (3 * k.val + t.val)

/-- R98 (with R96, R97, R99), for every present mask (R101): each plane's received word has an absent slice's bits 0; a plane
that decodes to data has that data in bit `i` of the twelve bytes, an Uncorrectable plane has 0 there; `UNC` says whether any
plane was Uncorrectable; the counters grow by the sum of the eight deltas. -/
def Obligations.DecblkGathersAndDecodes : Prop :=
  ∀ (s : State) (present : BitVec 8) (sl : Slices),
    SpelledBy (.decblk present sl) 0x4#4 204 ∧
    let dec := fun i => decodeWord s.config.b (received present sl i)
    ∃ out : Block,
      exec (.decblk present sl) s = .next (counted s 8
        ((List.range 8).map fun i => (dec i).2.corrected).sum ((List.range 8).map fun i => (dec i).2.uncorrectable).sum
        (.rb (if (List.range 8).any fun i => decide ((dec i).1 = .uncorrectable) then 0x1#4 else 0#4) out)) ∧
      ∀ i < 8, ∀ j : Fin 12,
        (∀ d, (dec i).1 = .data d → out[j].getLsbD i = d.getLsbD j.val) ∧
        ((dec i).1 = .uncorrectable → out[j].getLsbD i = false)

/-- R108 with R107 and R58: `PAD` of a chunk of `len` bytes, `len` in 0..11, answers the chunk followed by bytes of value
`12 - len`; `len` in 12..15 is answered `ILLEGAL` and nothing is done. -/
def Obligations.PadPadsOrIsIllegal : Prop :=
  ∀ (s : State) (len : BitVec 4) (chunk : Block),
    SpelledBy (.pad len chunk) 0x5#4 104 ∧
    (len.toNat ≤ 11 → ∃ blk : Block,
      exec (.pad len chunk) s = .next (answered s (.rb 0#4 blk)) ∧
      ∀ j : Fin 12, blk[j] = if j.val < len.toNat then chunk[j] else BitVec.ofNat 8 (12 - len.toNat)) ∧
    (12 ≤ len.toNat → exec (.pad len chunk) s = .next (answered s (.rn 0x4#4)))

/-- R110 with R109: `UNPAD` looks at the last byte `p` only. In 1..12 it keeps the first `12 - p` bytes, with status 0; else it
keeps all 12 and answers `PAD_ANOMALY`. The bytes of the response beyond its length are 0. -/
def Obligations.UnpadStripsOrFlags : Prop :=
  ∀ (s : State) (blk : Block),
    SpelledBy (.unpad blk) 0x6#4 100 ∧
    let p := blk[11].toNat
    (1 ≤ p → p ≤ 12 → ∃ out : Block,
      exec (.unpad blk) s = .next (answered s (.rp 0#4 (BitVec.ofNat 4 (12 - p)) out)) ∧
      ∀ j : Fin 12, out[j] = if j.val < 12 - p then blk[j] else 0#8) ∧
    (p = 0 ∨ 13 ≤ p → exec (.unpad blk) s = .next (answered s (.rp 0x2#4 12#4 blk)))

/-- R117 and R118: `RDSTAT` answers the three counters and writes nothing; `CLRSTAT` makes the three counters 0, and nothing else
in the core is cleared. -/
def Obligations.StatisticsOperations : Prop :=
  SpelledBy .rdstat 0x7#4 4 ∧ SpelledBy .clrstat 0x8#4 4 ∧
  ∀ s : State,
    exec .rdstat s =
      .next (answered s (.rc 0#4 s.stat.processed s.stat.corrected s.stat.uncorrectable)) ∧
    exec .clrstat s = .next { s with stat := ⟨0, 0, 0⟩, responses := s.responses ++ [.rn 0#4] }

/-- R57: each of the eight reserved opcodes is answered with an RN response of status `ILLEGAL`; nothing is performed and no
state changes. -/
def Obligations.ReservedOpcodesAnswerIllegal : Prop :=
  (SpelledBy .reserved0 0x0#4 4 ∧ SpelledBy .reserved9 0x9#4 4 ∧ SpelledBy .reservedA 0xA#4 4 ∧
    SpelledBy .reservedB 0xB#4 4 ∧ SpelledBy .reservedC 0xC#4 4 ∧ SpelledBy .reservedD 0xD#4 4 ∧
    SpelledBy .reservedE 0xE#4 4 ∧ SpelledBy .reservedF 0xF#4 4) ∧
  ∀ s : State,
    exec .reserved0 s = .next (answered s (.rn 0x4#4)) ∧ exec .reserved9 s = .next (answered s (.rn 0x4#4)) ∧
    exec .reservedA s = .next (answered s (.rn 0x4#4)) ∧ exec .reservedB s = .next (answered s (.rn 0x4#4)) ∧
    exec .reservedC s = .next (answered s (.rn 0x4#4)) ∧ exec .reservedD s = .next (answered s (.rn 0x4#4)) ∧
    exec .reservedE s = .next (answered s (.rn 0x4#4)) ∧ exec .reservedF s = .next (answered s (.rn 0x4#4))

/-- R148: `IllegalCommand` is raised by a reserved opcode, and by `PAD` with `len` over 11, and by nothing else; where it is
raised, an RN response with status 0x4 is all that happens. -/
def Obligations.IllegalExactlyWhenNotLegal : Prop :=
  ∀ (i : Instr) (s : State), ∃ st r,
    exec i s = .next { s with stat := st, responses := s.responses ++ [r] } ∧
    (r.status.getLsbD 2 = true ↔ i.wellFormed = false) ∧ (i.wellFormed = false → r = .rn 0x4#4 ∧ st = s.stat)

/-- R53: of the status bits at most one is set in a response, and bit 3 never; bit 0 is set by `DEC` and `DECBLK` only, bit 1 by
`UNPAD` only, bit 2 by `PAD` and the reserved opcodes only. -/
def Obligations.StatusHasOneBitAtMost : Prop :=
  ∀ (i : Instr) (s : State), ∃ st r,
    exec i s = .next { s with stat := st, responses := s.responses ++ [r] } ∧
    (r.status = 0x0#4 ∨
      (r.status = 0x1#4 ∧ ((∃ w, i = .dec w) ∨ ∃ p sl, i = .decblk p sl)) ∨
      (r.status = 0x2#4 ∧ ∃ blk, i = .unpad blk) ∨
      (r.status = 0x4#4 ∧ i.wellFormed = false))

/-- 30_encoding.md section 5 (R54): the fields an operation ignores do not matter. `ENC` ignores `w[23:12]`, `DECBLK` the payload
of an absent slice, `PAD` the chunk bytes at and past `len`. -/
def Obligations.IgnoredFieldsDoNotMatter : Prop :=
  ∀ s : State,
    (∀ w w' : BitVec 24, (w.extractLsb' 0 12 : DataWord) = w'.extractLsb' 0 12 → exec (.enc w) s = exec (.enc w') s) ∧
    (∀ (p : BitVec 8) (sl sl' : Slices), (∀ k : Fin 8, p.getLsbD k.val = true → sl[k] = sl'[k]) →
      exec (.decblk p sl) s = exec (.decblk p sl') s) ∧
    (∀ (len : BitVec 4) (ch ch' : Block), (∀ j : Fin 12, j.val < len.toNat → ch[j] = ch'[j]) →
      exec (.pad len ch) s = exec (.pad len ch') s)

/-! ### The code -/

/-- R72: checksum bit position `11-i` is the parity of the data word with row `i`, for every matrix. -/
def Obligations.ChkRowParity : Prop :=
  ∀ (b : GeneratorMatrix) (x : DataWord) (i : Fin 12), (chk b x).getLsbD (11 - i.val) = parity (x &&& b[i])

/-- The laws of `chk` for every matrix, and the column law for a symmetric one (40_codec.md section 2; the spec marks them as
derived). -/
def Obligations.ChkLaws : Prop :=
  ∀ b : GeneratorMatrix,
    chk b 0#12 = 0#12 ∧
    (∀ x y, chk b (x ^^^ y) = chk b x ^^^ chk b y) ∧
    (∀ (j i : Fin 12), (chk b (1#12 <<< j.val)).getLsbD (11 - i.val) = b[i].getLsbD j.val) ∧
    (∀ x : DataWord, chk b x =
      (List.range 12).foldl (fun y j => if x.getLsbD j then y ^^^ chk b (1#12 <<< j) else y) 0#12) ∧
    ((∀ i c : Fin 12, b[i].getLsbD (11 - c.val) = b[c].getLsbD (11 - i.val)) →
      ∀ i : Fin 12, chk b (1#12 <<< (11 - i.val)) = b[i])

/-- GB1 and its "equivalent test": the matrix is symmetric iff `chk(1 << (11-i)) = B[i]` for every row (00_scope.md section 3). -/
def Obligations.SymmetryByColumns : Prop :=
  ∀ b : GeneratorMatrix,
    (∀ i c : Fin 12, b[i].getLsbD (11 - c.val) = b[c].getLsbD (11 - i.val)) ↔
      ∀ i : Fin 12, chk b (1#12 <<< (11 - i.val)) = b[i]

/-- GB4 is a consequence of GB3 for a symmetric matrix: rows of weight at least 7, distinct rows at distance at least 6
(00_scope.md section 3; the spec marks it as a consequence). -/
def Obligations.RowBoundsFollow : Prop :=
  ∀ b : GeneratorMatrix,
    (∀ i c : Fin 12, b[i].getLsbD (11 - c.val) = b[c].getLsbD (11 - i.val)) →
    (∀ x : DataWord, x ≠ 0#12 → 8 ≤ popcount x + popcount (chk b x)) →
      (∀ i : Fin 12, 7 ≤ popcount b[i]) ∧ ∀ i c : Fin 12, i ≠ c → 6 ≤ popcount (b[i] ^^^ b[c])

/-- Linearity of `encode` and of the set of valid codewords, for every matrix (40_codec.md section 3; derived there). -/
def Obligations.EncodeIsLinear : Prop :=
  ∀ b : GeneratorMatrix,
    encodeWord b 0#12 = 0#24 ∧
    (∀ x y, encodeWord b x ^^^ encodeWord b y = encodeWord b (x ^^^ y)) ∧
    ∀ c d : Codeword, validCodeword b c = true → validCodeword b d = true → validCodeword b (c ^^^ d) = true

/-- R71: a codeword is valid iff its checksum matches its data bits; the valid codewords are exactly what `encode` produces, one
for each data word, which its high 12 bits give back. -/
def Obligations.ValidCodewordsAreEncodings : Prop :=
  ∀ b : GeneratorMatrix,
    (∀ c : Codeword, validCodeword b c = true ↔ c.extractLsb' 0 12 = chk b (c.extractLsb' 12 12)) ∧
    (∀ c : Codeword, validCodeword b c = true ↔ ∃ x, c = encodeWord b x) ∧
    ∀ x, (encodeWord b x).extractLsb' 12 12 = x

/-- Under GB3 every non-zero valid codeword has weight at least 8 and two distinct ones differ in at least 8 positions
(40_codec.md section 3). -/
def Obligations.CodewordsAreFarApart : Prop :=
  ∀ b : GeneratorMatrix, (∀ x : DataWord, x ≠ 0#12 → 8 ≤ popcount x + popcount (chk b x)) →
    (∀ c : Codeword, validCodeword b c = true → c ≠ 0#24 → 8 ≤ popcount c) ∧
    ∀ c d : Codeword, validCodeword b c = true → validCodeword b d = true → c ≠ d → 8 ≤ popcount (c ^^^ d)

/-- "∀ 12-bit x: `decode(encode(x)) == x`", with delta (1,0,0), for every matrix (40_codec.md section 4). -/
def Obligations.DecodeInvertsEncode : Prop :=
  ∀ (b : GeneratorMatrix) (x : DataWord), decodeWord b (encodeWord b x) = (.data x, ⟨1, 0, 0⟩)

/-- R79: under `GoodB`, up to 3 flipped bits are corrected, and counted as one corrected codeword unless none was flipped. -/
def Obligations.CorrectsThreeErrors : Prop :=
  ∀ b : GeneratorMatrix, GoodB b → ∀ (x : DataWord) (m : Codeword), popcount m ≤ 3 →
    decodeWord b (encodeWord b x ^^^ m) = (.data x, ⟨1, if m = 0#24 then 0 else 1, 0⟩)

/-- Which error class each stage catches (40_codec.md section 4, the table of R78; its grounds are the spec's own derivation), and
what the decode gives there: no data error stage 3, the data unchanged; one data error stage 4, the data with the bit of row
`i` flipped; two or three without a checksum error stage 5, the data XOR `chk(s)`; two with one stage 6, the data XOR `chk(s)`
XOR row `i`; `i` being the first row near. -/
def Obligations.ErrorClassReachesStage : Prop :=
  ∀ b : GeneratorMatrix, GoodB b → ∀ (x : DataWord) (m : Codeword),
    let nd := popcount (m.extractLsb' 12 12 : DataWord)
    let nc := popcount (m.extractLsb' 0 12 : DataWord)
    let c := encodeWord b x ^^^ m
    let rd : DataWord := c.extractLsb' 12 12
    let s := syndrome b c
    (nd = 0 → nc ≤ 3 →
      stageOf b c = 3 ∧ decodeWord b c = (.data rd, ⟨1, if popcount s = 0 then 0 else 1, 0⟩)) ∧
    (nd = 1 → nc ≤ 2 → stageOf b c = 4 ∧
      ∃ i : Fin 12, FirstNear b s i ∧ decodeWord b c = (.data (rd ^^^ (1#12 <<< (11 - i.val))), ⟨1, 1, 0⟩)) ∧
    (nd = 2 ∨ nd = 3 → nc = 0 →
      stageOf b c = 5 ∧ NoneNear b s ∧ decodeWord b c = (.data (rd ^^^ chk b s), ⟨1, 1, 0⟩)) ∧
    (nd = 2 → nc = 1 → stageOf b c = 6 ∧ NoneNear b s ∧
      ∃ i : Fin 12, FirstNear b (chk b s) i ∧ decodeWord b c = (.data (rd ^^^ chk b s ^^^ b[i]), ⟨1, 1, 0⟩))

/-- Under `GoodB` an error of weight exactly 4 always ends Uncorrectable (40_codec.md section 4, beyond the capacity; derived
there). -/
def Obligations.FourErrorsUncorrectable : Prop :=
  ∀ b : GeneratorMatrix, GoodB b → ∀ (x : DataWord) (m : Codeword), popcount m = 4 →
    decodeWord b (encodeWord b x ^^^ m) = (.uncorrectable, ⟨1, 0, 1⟩)

/-- Under `GoodB` an error of weight 5 or more never gives the right data word (40_codec.md section 4, beyond the capacity;
derived there). -/
def Obligations.FiveErrorsNeverRight : Prop :=
  ∀ b : GeneratorMatrix, GoodB b → ∀ (x : DataWord) (m : Codeword), 5 ≤ popcount m →
    (decodeWord b (encodeWord b x ^^^ m)).1 ≠ .data x

/-! ### Blocks -/

/-- The structure of the slices, for every matrix (41_striper.md section 1, the four points of R95; derived there): slice `k` holds
codeword bits `3k..3k+2`; slices 4 to 7 are the block's bytes; slices 0 to 3 are checksum bits; the map is linear. -/
def Obligations.EncblkStructure : Prop :=
  ∀ (b : GeneratorMatrix) (blk : Block),
    (∀ (k : Fin 8) (t : Fin 3), ∀ i < 8,
      (encodeBlock b blk)[k][t].getLsbD i = (encodeWord b (plane blk i)).getLsbD (3 * k.val + t.val)) ∧
    (∀ (m : Fin 4) (t : Fin 3), (encodeBlock b blk)[4 + m.val][t] = blk[3 * m.val + t.val]) ∧
    (∀ (k : Fin 4) (t : Fin 3), ∀ i < 8,
      (encodeBlock b blk)[k.val][t].getLsbD i = (chk b (plane blk i)).getLsbD (3 * k.val + t.val)) ∧
    ∀ (blk' : Block) (k : Fin 8) (t : Fin 3),
      (encodeBlock b (Vector.ofFn fun j => blk[j] ^^^ blk'[j]))[k][t] =
        (encodeBlock b blk)[k][t] ^^^ (encodeBlock b blk')[k][t]

/-- R103: no lane reads or writes a bit position another lane owns. Lane `i` of the slices depends on bit `i` of the block bytes
only, and lane `i` of the decoded block on bit `i` of the slice bytes only. -/
def Obligations.LanesAreIndependent : Prop :=
  ∀ (c : Config) (i : Nat), i < 8 →
    (∀ blk blk' : Block, (∀ j : Fin 12, blk[j].getLsbD i = blk'[j].getLsbD i) →
      ∀ (k : Fin 8) (t : Fin 3), (encodeBlock c.b blk)[k][t].getLsbD i = (encodeBlock c.b blk')[k][t].getLsbD i) ∧
    ∀ (st st' : Stat) (p : BitVec 8) (sl sl' : Slices),
      (∀ (k : Fin 8) (t : Fin 3), sl[k][t].getLsbD i = sl'[k][t].getLsbD i) →
      ∀ j : Fin 12, (decodeBlock c st (presentSlices p sl)).out[j].getLsbD i =
        (decodeBlock c st' (presentSlices p sl')).out[j].getLsbD i

/-- R18 and R154: no order among the eight planes is observable, in the slices, in the block, in `UNC` or in the counters. -/
def Obligations.PlaneOrderUnobservable : Prop :=
  ∀ l : List Nat, l.Perm (List.range 8) →
    (∀ (b : GeneratorMatrix) (blk : Block),
      l.foldl (fun sl i => scatter sl (encodeWord b (plane blk i)) i) zeroSlices = encodeBlock b blk) ∧
    ∀ (c : Config) (st : Stat) (s : Vector (Option SliceTriple) 8),
      l.foldl (decodePlane c s) ⟨zeroBlock, false, st⟩ = decodeBlock c st s

/-- For every matrix, `DECBLK` of the eight slices of a block answers the block, status 0, delta (8,0,0) (41_striper.md section 2,
the inverse property; derived there). -/
def Obligations.DecblkInvertsEncblk : Prop :=
  ∀ (s : State) (blk : Block),
    exec (.decblk 0xFF#8 (encodeBlock s.config.b blk)) s = .next (counted s 8 0 0 (.rb 0#4 blk))

/-- "Remove any single slice entirely ... `decode_block` over the remaining 7 reproduces B exactly" under `GoodB`
(41_striper.md section 2); the planes counted as corrected are those that had a 1 among their three erased bits. -/
def Obligations.DecblkRecoversOneLostSlice : Prop :=
  ∀ (s : State) (blk : Block) (k : Fin 8), GoodB s.config.b →
    exec (.decblk (allBut k) (encodeBlock s.config.b blk)) s =
      .next (counted s 8 (planesWith fun i => sliceTouches (encodeWord s.config.b (plane blk i)) k) 0 (.rb 0#4 blk))

/-- "For every chunk `ch` of 0 to 11 bytes, `unpad(pad(ch)) = (ch, false)`" (42_padding.md, round trip; derived there). -/
def Obligations.UnpadInvertsPad : Prop := ∀ ch : List Byte, ch.length ≤ 11 → unpad (pad ch) = (ch, false)

/-! ### The whole machine -/

/-- After reset `STAT = (0,0,0)`, no run is in progress and no command is pending (70_reset_and_hazards.md section 1, R167); so of
a core with any constants, which reset leaves as they are. That no response stands is the model's choice (log 4).
`State.reset` is this state with the constants of logs 1 and 2. -/
def Obligations.ResetState : Prop :=
  ∀ c : Config,
    (State.powerOn c).stat = ⟨0, 0, 0⟩ ∧ (State.powerOn c).run = none ∧ (State.powerOn c).requests = [] ∧
      (State.powerOn c).responses = [] ∧ (State.powerOn c).config = c ∧
      State.reset = State.powerOn State.reset.config

/-- A hardware reset makes `STAT` 0 and abandons the run in progress without a response, leaving `B` unaffected
(70_reset_and_hazards.md section 1, R166). That no result is given, that queued requests are dropped ("no command pending",
R167), and that what the host already has stays, is the model's reading (log 12). R166 says that the core then waits for its
first command; that a step meanwhile leaves the state as it is is the model's reading too (log 6). -/
def Obligations.HardwareResetEffect : Prop :=
  ∀ s : State,
    s.hardwareReset.stat = ⟨0, 0, 0⟩ ∧ s.hardwareReset.run = none ∧ s.hardwareReset.requests = [] ∧
      s.hardwareReset.config = s.config ∧ s.hardwareReset.responses = s.responses ∧
      s.hardwareReset.results = s.results ∧ s.hardwareReset.streams = s.streams ∧
      step s.hardwareReset = .next s.hardwareReset

/-- R47: no operation, no stream access and no command changes the constant table. -/
def Obligations.ConstantsNeverChange : Prop := ∀ s t : State, step s = .next t → t.config = s.config

/-- Every step keeps a legal state legal: counters inside `CNT_W` bits, cursors inside their streams, the sequencer where its
procedures can be (10_state.md, 20_memory.md, 44_stream_sequencer.md). -/
def Obligations.StepKeepsLegalState : Prop := ∀ s t : State, s.Inv → step s = .next t → t.Inv

/-- The reset state is legal. -/
def Obligations.ResetIsLegal : Prop := State.reset.Inv

/-- `corrected + uncorrectable <= processed` as long as no counter wraps (10_state.md section 3; derived there). A step adds at
most 8. -/
def Obligations.CountersAddUp : Prop :=
  ∀ s t : State, s.stat.corrected + s.stat.uncorrectable ≤ s.stat.processed →
    s.stat.processed + 8 < 2 ^ s.config.cntW → step s = .next t →
      t.stat.corrected + t.stat.uncorrectable ≤ t.stat.processed

/-- A run is performed to its end before the next request is taken, and gives no response meanwhile (10_state.md section 1, R14);
with no run and no request the core waits for its first command (70_reset_and_hazards.md section 1, R166), and that a step then
leaves the state as it is is the model's reading (log 6). -/
def Obligations.RequestsWaitForTheRun : Prop :=
  (∀ s : State, s.run ≠ none → ∃ t, step s = .next t ∧ t.requests = s.requests ∧ t.responses = s.responses) ∧
  ∀ s : State, s.run = none → s.requests = [] → step s = .next s

/-! ### Streams -/

/-- A read gives the next `min(n, remaining)` bytes and moves the cursor past them, and is short exactly when fewer than `n` remained;
a write appends all its bytes and answers `ok`, or appends a prefix of them and fails (20_memory.md section 3, R37, R38). That
the host's answers stand in a list used up in order, and that past its end every write succeeds, is the model's choice
(log 9). -/
def Obligations.StreamPrimitives : Prop :=
  (∀ (i : InStream) (n : Nat), ∃ r : List Byte,
    i.read n = (r, ⟨i.bytes, i.cursor + r.length⟩) ∧ r = (i.bytes.drop i.cursor).take n ∧ r.length ≤ n ∧
      (r.length < n ↔ i.bytes.length - i.cursor < n)) ∧
  ∀ (o : OutStream) (bs : List Byte),
    (o.answers = [] → o.write bs = (true, ⟨o.bytes ++ bs, []⟩)) ∧
    (∀ rest, o.answers = .ok :: rest → o.write bs = (true, ⟨o.bytes ++ bs, rest⟩)) ∧
    ∀ n rest, o.answers = .fail n :: rest → o.write bs = (false, ⟨o.bytes ++ bs.take n, rest⟩)

/-- R32 and R46: while a run goes on, output streams only grow at their ends, input streams keep their bytes and their cursors
only move forward. A step changes only the stream it accesses: the slice output about to be written, the present slice input
about to be read, the source in an encode read, `OUT` when a decode iteration has read its slices; in every other phase all
stay. That a step makes one access is the model's choice (log 8). -/
def Obligations.StreamsOnlyMoveForward : Prop :=
  ∀ s t : State, s.run ≠ none → step s = .next t →
    s.streams.out <+: t.streams.out ∧
    t.streams.src.bytes = s.streams.src.bytes ∧ s.streams.src.cursor ≤ t.streams.src.cursor ∧
    (∀ k : Fin 8, s.streams.slOut[k].bytes <+: t.streams.slOut[k].bytes ∧
      t.streams.slIn[k].bytes = s.streams.slIn[k].bytes ∧ s.streams.slIn[k].cursor ≤ t.streams.slIn[k].cursor) ∧
    (∀ j : Fin 8, (∀ sl e, s.run ≠ some (.encode ⟨.write j sl, e⟩)) → t.streams.slOut[j] = s.streams.slOut[j]) ∧
    (∀ j : Fin 8, (∀ r, s.run = some (.decode r) → r.phase = .read j → r.present.getLsbD j.val = false) →
      t.streams.slIn[j] = s.streams.slIn[j]) ∧
    ((∀ e, s.run ≠ some (.encode ⟨.read, e⟩)) → t.streams.src = s.streams.src) ∧
    ((∀ r, s.run = some (.decode r) → r.phase ≠ .block) → t.streams.out = s.streams.out)

/-! ### Runs -/

/-- The counters are cleared; then, in this order, a missing source ends the run with `INPUT_OPEN_FAILURE` and a missing slice output
with `OUTPUTS_UNAVAILABLE`, before any stream is touched; else the run starts, on a source at cursor 0 and eight empty slice
outputs (44_stream_sequencer.md section 2, R124; 20_memory.md section 1). That a slice output carries its handle's answers, and
that the slice inputs and `OUT` stay as they were, is the model's choice (logs 9 and 13). -/
def Obligations.EncodePreconditions : Prop :=
  ∀ (s : State) (src : Option (List Byte)) (sl : Vector (Option (List WriteAnswer)) 8) (rest : List Request),
    s.run = none → s.requests = .encodeRun src sl :: rest →
    ∃ t, step s = .next t ∧ t.stat = ⟨0, 0, 0⟩ ∧ t.requests = rest ∧ t.responses = s.responses ∧
      (src = none → t.run = none ∧ t.streams = s.streams ∧
        t.results = s.results ++ [⟨.inputOpenFailure, false, ⟨0, 0, 0⟩⟩]) ∧
      (src ≠ none → (∃ k : Fin 8, sl[k] = none) → t.run = none ∧ t.streams = s.streams ∧
        t.results = s.results ++ [⟨.outputsUnavailable, false, ⟨0, 0, 0⟩⟩]) ∧
      ∀ bytes, src = some bytes → (∀ k : Fin 8, sl[k] ≠ none) →
        t.run = some (.encode ⟨.read, false⟩) ∧ t.results = s.results ∧ t.streams.src = ⟨bytes, 0⟩ ∧
        (∀ k : Fin 8, t.streams.slOut[k].bytes = [] ∧ sl[k] = some t.streams.slOut[k].answers) ∧
        t.streams.slIn = s.streams.slIn ∧ t.streams.out = s.streams.out

/-- R128: the counters are cleared; fewer than 7 slices present end the run with `INSUFFICIENT_INPUTS` before any stream is
touched; else the run starts with the present mask of the handles, `prev` absent, `lossy` and `pad_anomaly` 0. -/
def Obligations.DecodePreconditions : Prop :=
  ∀ (s : State) (sl : Vector (Option (List Byte)) 8) (rest : List Request),
    s.run = none → s.requests = .decodeRun sl :: rest →
    ∃ t, step s = .next t ∧ t.stat = ⟨0, 0, 0⟩ ∧ t.requests = rest ∧ t.responses = s.responses ∧
      (presentCount sl < 7 → t.run = none ∧ t.streams = s.streams ∧
        t.results = s.results ++ [⟨.insufficientInputs, false, ⟨0, 0, 0⟩⟩]) ∧
      (7 ≤ presentCount sl → t.results = s.results ∧ t.streams.out = [] ∧
        (∀ (k : Fin 8) (bytes : List Byte), sl[k] = some bytes → t.streams.slIn[k] = ⟨bytes, 0⟩) ∧
        ∃ r : DecodeRun, t.run = some (.decode r) ∧ r.phase = .read 0 ∧ r.prev = none ∧ r.lossy = false ∧
          r.padAnomaly = false ∧ r.terminal = false ∧ ∀ k : Fin 8, r.present.getLsbD k.val = sl[k].isSome)

/-- A slice write that fails ends the run with `SLICE_WRITE_FAILURE`, with no retry: the slice keeps a prefix of its triple, no other
slice is written, no further block is read, nothing is rolled back (60_exceptions.md section 1, R152; 44_stream_sequencer.md
section 2, R126). How long the prefix is is the host's answer, and that a run returns its result in a step of its own is the
model's choice (logs 9 and 8). -/
def Obligations.FailingWriteEndsRun : Prop :=
  ∀ (s : State) (k : Fin 8) (sl : Slices) (terminal : Bool) (n : Nat) (rest : List WriteAnswer),
    s.run = some (.encode ⟨.write k sl, terminal⟩) → s.streams.slOut[k].answers = .fail n :: rest →
    ∃ steps t, Reaches steps s t ∧ t.run = none ∧
      t.results = s.results ++ [⟨.sliceWriteFailure, false, s.stat⟩] ∧
      t.requests = s.requests ∧ t.responses = s.responses ∧ t.config = s.config ∧
      t.stat = s.stat ∧ t.streams.src = s.streams.src ∧ t.streams.slIn = s.streams.slIn ∧ t.streams.out = s.streams.out ∧
      t.streams.slOut[k].bytes = s.streams.slOut[k].bytes ++ sl[k].toList.take n ∧
      ∀ j : Fin 8, j ≠ k → t.streams.slOut[j] = s.streams.slOut[j]

/-- R40 and R126: the slices stay level. In an encode run all eight hold the triples of the same blocks, the slices already written
in this iteration hold their triple of the block being written too, and after a failing write slice `k` holds a prefix of
its triple of that block. Every step keeps this: the blocks stay the same until slice 7 is written, which adds the one being
written. -/
def Obligations.SlicesStayLevel : Prop :=
  ∀ (s t : State) (blocks : List Slices) (cur : Slices), SlicesLevel s blocks cur → step s = .next t →
    ∃ (blocks' : List Slices) (cur' : Slices), SlicesLevel t blocks' cur' ∧
      (∀ e, s.run = some (.encode ⟨.read, e⟩) → blocks' = blocks) ∧
      ∀ k sl e, s.run = some (.encode ⟨.write k sl, e⟩) →
        cur' = sl ∧ (blocks' = blocks ∨ (k = 7 ∧ blocks' = blocks ++ [sl]))

/-- R41 and R129, one slice of a decode iteration: a present slice is read, 3 bytes at most, and a short read makes the
iteration terminal; an absent slice is passed over; then comes the next slice, or after slice 7 the block. That each slice is a
step of its own is the model's choice (log 8). -/
def Obligations.DecodeReadsOneSlice : Prop :=
  ∀ (s : State) (r : DecodeRun) (k : Fin 8), s.run = some (.decode r) → r.phase = .read k →
    ∃ (t : State) (r' : DecodeRun), step s = .next t ∧ t.run = some (.decode r') ∧ t.stat = s.stat ∧
      t.streams.out = s.streams.out ∧ r'.present = r.present ∧ r'.prev = r.prev ∧ r'.lossy = r.lossy ∧
      (∀ j : Fin 8, j.val = k.val + 1 → r'.phase = .read j) ∧ (k.val = 7 → r'.phase = .block) ∧
      (∀ j : Fin 8, j ≠ k → r'.got[j] = r.got[j] ∧ t.streams.slIn[j] = s.streams.slIn[j]) ∧
      (r.present.getLsbD k.val = false → r'.terminal = r.terminal ∧ t.streams = s.streams) ∧
      (r.present.getLsbD k.val = true →
        let left := s.streams.slIn[k].bytes.drop s.streams.slIn[k].cursor
        r'.got[k] = left.take 3 ∧ t.streams.slIn[k].cursor = s.streams.slIn[k].cursor + (left.take 3).length ∧
        (r'.terminal = true ↔ r.terminal = true ∨ left.length < 3))

/-- R130 with R131, R133 and R150: in the terminal iteration nothing is decoded and `STAT` does not change; the bytes read in it
are discarded; the block held in arrears is unpadded by its last byte and written, whole with `pad_anomaly` if that byte is
out of 1..12; the outcome is `LOSSY` or `SUCCESS`. That the run returns its result in a step of its own is the model's choice
(log 8). -/
def Obligations.TerminalIterationDecodesNothing : Prop :=
  ∀ (s : State) (r : DecodeRun), s.run = some (.decode r) → r.phase = .block → r.terminal = true →
    ∃ (steps : Nat) (t : State) (kept : List Byte) (anomaly : Bool), Reaches steps s t ∧ t.run = none ∧ t.stat = s.stat ∧
      t.requests = s.requests ∧ t.responses = s.responses ∧ t.config = s.config ∧
      t.streams = { s.streams with out := s.streams.out ++ kept } ∧
      t.results = s.results ++ [⟨if r.lossy then .lossy else .success, anomaly, s.stat⟩] ∧
      (r.prev = none → kept = [] ∧ (r.padAnomaly = false → anomaly = false)) ∧
      ∀ b : Block, r.prev = some b →
        (1 ≤ b[11].toNat → b[11].toNat ≤ 12 → kept = b.toList.take (12 - b[11].toNat) ∧ anomaly = false) ∧
        (b[11].toNat = 0 ∨ 13 ≤ b[11].toNat → kept = b.toList ∧ anomaly = true)

/-- `lossy = 1` iff `STAT.uncorrectable > 0`, short of counter wrap (44_stream_sequencer.md section 3; derived there): every step
keeps it, and the outcome of a run that ends says it. -/
def Obligations.LossyMeansUncorrectable : Prop :=
  ∀ s t : State, LossyTracks s → s.stat.uncorrectable + 8 < 2 ^ s.config.cntW → step s = .next t →
    LossyTracks t ∧
    ∀ r, s.run = some (.decode r) → r.phase = .done →
      ∃ a, t.results = s.results ++ [⟨if 0 < s.stat.uncorrectable then .lossy else .success, a, s.stat⟩]

/-- R134: a decode run whose very first iteration is terminal writes nothing, counts nothing and ends `SUCCESS`. -/
def Obligations.DecodeRunWithoutABlock : Prop :=
  ∀ (s : State) (sl : Vector (Option (List Byte)) 8) (rest : List Request),
    s.run = none → s.requests = .decodeRun sl :: rest → 7 ≤ presentCount sl →
    (∃ (k : Fin 8) (bytes : List Byte), sl[k] = some bytes ∧ bytes.length < 3) →
    ∃ n t, Reaches n s t ∧ t.run = none ∧ t.requests = rest ∧ t.streams.out = [] ∧ t.stat = ⟨0, 0, 0⟩ ∧
      t.results = s.results ++ [⟨.success, false, ⟨0, 0, 0⟩⟩]

/-- Every run ends after finitely many steps, with one result (44_stream_sequencer.md section 4, R137; derived there). -/
def Obligations.EveryRunEnds : Prop :=
  ∀ s : State, s.Inv → s.run ≠ none →
    ∃ n t, Reaches n s t ∧ t.run = none ∧ t.requests = s.requests ∧ ∃ res, t.results = s.results ++ [res]

/-- The result of a successful encode run (44_stream_sequencer.md section 2, R127; derived there): the outcome is `SUCCESS` with
`STAT = (0,0,0)`; slice `k` is, block by block, slice `k` of the encoded block, `3n` bytes in all; slices 4 to 7 are the padded
plaintext. -/
def Obligations.EncodeRunResult : Prop :=
  ∀ (s : State) (pt : List Byte) (sl : Vector (Option (List WriteAnswer)) 8) (rest : List Request),
    s.run = none → s.requests = .encodeRun (some pt) sl :: rest → AllOpen sl →
    ∃ n t, Reaches n s t ∧ t.run = none ∧ t.requests = rest ∧ t.responses = s.responses ∧ t.stat = ⟨0, 0, 0⟩ ∧
      t.results = s.results ++ [⟨.success, false, ⟨0, 0, 0⟩⟩] ∧ t.streams.src.cursor = pt.length ∧
      (∀ k : Fin 8,
        t.streams.slOut[k].bytes =
          (List.range (blocksOf pt)).flatMap (fun m => (encodeBlock s.config.b (blockOf pt m))[k].toList) ∧
        t.streams.slOut[k].bytes.length = 3 * (pt.length / 12 + 1)) ∧
      ∀ (m : Nat) (q : Fin 4) (u : Fin 3), m < blocksOf pt →
        t.streams.slOut[4 + q.val].bytes[3 * m + u.val]? = (padded pt)[12 * m + 3 * q.val + u.val]?

/-- What a decode run decodes and writes (44_stream_sequencer.md section 3, R129, R131, R132, R135). An iteration that is not
terminal is `DECBLK` of the triples it read: the counters are those `DECBLK` leaves, its block is held, the block held before
is written as it is, and the run is lossy if it was or if `DECBLK` answered `UNC`; the next iteration starts; that this is one
step is the model's choice (log 8). So over a whole run of `m` blocks, the number of whole triples of the shortest present slice: block `n` is `DECBLK` of the `n`-th triples,
`OUT` is the blocks but the last followed by the unpadded bytes of the last, the result says `LOSSY` if any block was flagged;
`8m` codewords; between `12(m-1)` and `12m` bytes out, `12m` exactly on a pad anomaly. -/
def Obligations.DecodeRunBlocks : Prop :=
  (∀ (s : State) (r : DecodeRun) (tr : Slices), s.run = some (.decode r) → r.phase = .block → r.terminal = false →
    (∀ k : Fin 8, r.present.getLsbD k.val = true → tr[k].toList = r.got[k]) →
    ∃ (t u : State) (st : BitVec 4) (blk : Block) (r' : DecodeRun),
      exec (.decblk r.present tr) s = .next u ∧ u.responses = s.responses ++ [.rb st blk] ∧
      step s = .next t ∧ t.stat = u.stat ∧ t.run = some (.decode r') ∧
      r'.prev = some blk ∧ r'.lossy = (r.lossy || st.getLsbD 0) ∧ r'.phase = .read 0 ∧ r'.terminal = false ∧
      r'.present = r.present ∧ r'.padAnomaly = r.padAnomaly ∧
      t.streams = { s.streams with out := s.streams.out ++ (r.prev.elim [] fun b => b.toList) } ∧
      t.requests = s.requests ∧ t.responses = s.responses ∧ t.results = s.results ∧ t.config = s.config) ∧
  ∀ (s : State) (sl : Vector (Option (List Byte)) 8) (rest : List Request) (m : Nat),
    s.run = none → s.requests = .decodeRun sl :: rest → 7 ≤ presentCount sl →
    (∀ (k : Fin 8) (bytes : List Byte), sl[k] = some bytes → 3 * m ≤ bytes.length) →
    (∃ (k : Fin 8) (bytes : List Byte), sl[k] = some bytes ∧ bytes.length < 3 * m + 3) →
    let d := decodedBlocks s.config sl m
    let w := writtenOut d.blocks
    ∃ n t, Reaches n s t ∧ t.run = none ∧ t.requests = rest ∧ t.responses = s.responses ∧ t.stat = d.stat ∧
      t.streams.out = w.1 ∧ t.results = s.results ++ [⟨if d.lossy then .lossy else .success, w.2, d.stat⟩] ∧
      d.blocks.length = m ∧ d.stat.processed = 8 * m % 2 ^ s.config.cntW ∧
      (m = 0 → w = ([], false)) ∧
      (0 < m → 12 * (m - 1) ≤ w.1.length ∧ w.1.length ≤ 12 * m ∧ (w.1.length = 12 * m ↔ w.2 = true))

/-- Encoding a plaintext and decoding the eight slices writes exactly the plaintext, for every matrix, with `SUCCESS`, no pad
anomaly and stats (8n,0,0) (44_stream_sequencer.md section 5, R139; derived there). -/
def Obligations.StreamRoundTrip : Prop :=
  ∀ (s : State) (pt : List Byte) (sl : Vector (Option (List WriteAnswer)) 8) (rest : List Request),
    s.run = none → s.requests = .encodeRun (some pt) sl :: rest → AllOpen sl →
    ∃ n t, Reaches n s t ∧ t.run = none ∧ t.requests = rest ∧
      t.results = s.results ++ [⟨.success, false, ⟨0, 0, 0⟩⟩] ∧
      ∀ (u : State) (rest' : List Request), u.config = s.config → u.run = none →
        u.requests = .decodeRun (Vector.ofFn fun k => some t.streams.slOut[k].bytes) :: rest' →
        ∃ n' v, Reaches n' u v ∧ v.run = none ∧ v.requests = rest' ∧ v.streams.out = pt ∧
          v.results = u.results ++ [⟨.success, false, ⟨8 * blocksOf pt % 2 ^ s.config.cntW, 0, 0⟩⟩]

/-- The same with any one slice absent, under `GoodB`, with stats (8n,c,0) for some `c <= 8n` (44_stream_sequencer.md section 5,
R139; derived there; the source's erasure property for whole streams). -/
def Obligations.StreamRoundTripOneSliceLost : Prop :=
  ∀ (s : State) (pt : List Byte) (sl : Vector (Option (List WriteAnswer)) 8) (rest : List Request) (lost : Fin 8),
    GoodB s.config.b → s.run = none → s.requests = .encodeRun (some pt) sl :: rest → AllOpen sl →
    ∃ n t, Reaches n s t ∧ t.run = none ∧ t.requests = rest ∧
      t.results = s.results ++ [⟨.success, false, ⟨0, 0, 0⟩⟩] ∧
      ∀ (u : State) (rest' : List Request), u.config = s.config → u.run = none →
        u.requests = .decodeRun
          (Vector.ofFn fun k => if k = lost then none else some t.streams.slOut[k].bytes) :: rest' →
        ∃ n' v c, Reaches n' u v ∧ v.run = none ∧ v.requests = rest' ∧ v.streams.out = pt ∧ c ≤ 8 * blocksOf pt ∧
          v.results = u.results ++
            [⟨.success, false, ⟨8 * blocksOf pt % 2 ^ s.config.cntW, c % 2 ^ s.config.cntW, 0⟩⟩]

/-- R149: the codes of the six outcomes, and which of them are fatal. -/
def Obligations.RunOutcomeCodes : Prop :=
  (RunOutcome.success.code = 0 ∧ RunOutcome.inputOpenFailure.code = 1 ∧ RunOutcome.outputsUnavailable.code = 2 ∧
    RunOutcome.insufficientInputs.code = 3 ∧ RunOutcome.sliceWriteFailure.code = 4 ∧ RunOutcome.lossy.code = 5) ∧
  ∀ o : RunOutcome, o.fatal = true ↔ 1 ≤ o.code ∧ o.code ≤ 4
end

