-- ==== Sys2Proof/Laws/Bits.lean ====
section
/-! SUPPORT. What the bit and byte helpers of Machine/Bits.lean give, bit position by bit position. -/

namespace Sys2Proof

@[simp] theorem getLsbD_ofBits (n : Nat) (f : Nat → Bool) (p : Nat) :
    (ofBits n f).getLsbD p = (decide (p < n) && f p) := by
  induction n with
  | zero => simp [ofBits]
  | succ n ih =>
    rw [ofBits, BitVec.getLsbD_cons, ih]
    by_cases h : p = n
    · subst h; simp
    · by_cases h' : p < n
      · simp [h, h', Nat.lt_succ_of_lt h']
      · have : ¬p < n + 1 := by omega
        simp [h, h', this]

theorem byteAt_of_lt {n : Nat} (v : Vector Byte n) (j : Nat) (h : j < n) : byteAt v j = v[j] := by
  simp [byteAt, h]

@[simp] theorem byteAt_ofFn {n : Nat} (f : Fin n → Byte) (j : Nat) (h : j < n) :
    byteAt (Vector.ofFn f) j = f ⟨j, h⟩ := by
  simp [byteAt, h]

theorem sliceByte_of_lt (sl : Slices) (k t : Nat) (hk : k < 8) (ht : t < 3) : sliceByte sl k t = sl[k][t] := by
  simp [sliceByte, byteAt, hk, ht]

@[simp] theorem getLsbD_packBytes (n : Nat) (g : Nat → Byte) (p : Nat) :
    (packBytes n g).getLsbD p = (decide (p < 8 * n) && (g (p / 8)).getLsbD (p % 8)) := by
  simp [packBytes]

@[simp] theorem getLsbD_byteField {n : Nat} (v : BitVec n) (off j p : Nat) :
    (byteField v off j).getLsbD p = (decide (p < 8) && v.getLsbD (off + 8 * j + p)) := by
  simp [byteField]

/-- The weight of a value one bit wider: the top bit counts once more. -/
theorem popcount_succ {n : Nat} (v : BitVec (n + 1)) :
    popcount v = popcount (v.setWidth n) + (v.getLsbD n).toNat := by
  have h : (List.range n).countP (fun p => v.getLsbD p) = (List.range n).countP fun p => (v.setWidth n).getLsbD p := by
    refine List.countP_congr fun p hp => ?_
    simp [List.mem_range.mp hp]
  unfold popcount
  rw [List.range_succ, List.countP_append, h, List.countP_singleton]
  cases v.getLsbD n <;> rfl

theorem popcount_le {n : Nat} (v : BitVec n) : popcount v ≤ n := by
  have h := List.countP_le_length (l := List.range n) (p := fun p => v.getLsbD p)
  rwa [List.length_range] at h

@[simp] theorem parityBit_getLsbD_zero {n m : Nat} (hm : 0 < m) (v : BitVec n) :
    (parityBit m v).getLsbD 0 = parity v := by
  cases h : parity v <;> simp [parityBit, h, hm]

end Sys2Proof
end

