-- ==== Sys2Proof/Laws/DefaultMatrix.lean ====
section
/-! SUPPORT. `DEFAULT_B` meets `GoodB` (spec 00_scope.md R9, R10): the finite checks are made on natural numbers, by a copy of
the weight and of the checksum that the kernel evaluates fast, proved equal to those of the model. -/

namespace Sys2Proof

/-- Weight of the 4 low bits, read from a table packed in one number. -/
def nibbleWeight (m : Nat) : Nat := Nat.mod (Nat.shiftRight 0x4332322132212110 (Nat.mul 4 (Nat.mod m 16))) 16

/-- Weight of the 12 low bits. -/
def fastWeight (m : Nat) : Nat :=
  Nat.add (nibbleWeight m) (Nat.add (nibbleWeight (Nat.div m 16)) (nibbleWeight (Nat.div m 256)))

/-- The checksum of `x` on numbers, the rows still to come and the bits so far given. -/
def fastChk : List Nat → Nat → Nat → Nat
  | [], _, y => y
  | r :: rs, x, y => fastChk rs x (Nat.add (Nat.mul 2 y) (Nat.mod (fastWeight (Nat.land x r)) 2))

/-- `p` holds of every number whose bits are those of `x` followed by any `n` bits. -/
def scan (p : Nat → Bool) : Nat → Nat → Bool
  | 0, x => p x
  | n + 1, x => scan p n (2 * x) && scan p n (2 * x + 1)

theorem scan_sound {p : Nat → Bool} {n x : Nat} (h : scan p n x = true) (m : Nat) (hm : m < 2 ^ n) :
    p (x * 2 ^ n + m) = true := by
  induction n generalizing x m with
  | zero => simp_all [scan]
  | succ n ih =>
    rw [scan, Bool.and_eq_true] at h
    rw [Nat.pow_succ] at hm
    by_cases hlt : m < 2 ^ n
    · have := ih h.1 m hlt
      rwa [show 2 * x * 2 ^ n + m = x * 2 ^ (n + 1) + m by ring] at this
    · have := ih h.2 (m - 2 ^ n) (by omega)
      rwa [show (2 * x + 1) * 2 ^ n + (m - 2 ^ n) = x * 2 ^ (n + 1) + m by
        rw [Nat.pow_succ, Nat.add_mul, one_mul, show 2 * x * 2 ^ n = x * (2 ^ n * 2) by ring]; omega] at this

theorem nibbleWeight_eq (m : Nat) : nibbleWeight m = m % 2 + m / 2 % 2 + m / 4 % 2 + m / 8 % 2 := by
  have h : ∀ a : Fin 16, nibbleWeight a = a.val % 2 + a.val / 2 % 2 + a.val / 4 % 2 + a.val / 8 % 2 := by decide
  have := h ⟨m % 16, Nat.mod_lt _ (by decide)⟩
  have hm : nibbleWeight m = nibbleWeight (m % 16) := by
    show Nat.mod (Nat.shiftRight _ (4 * (m % 16))) 16 = Nat.mod (Nat.shiftRight _ (4 * (m % 16 % 16))) 16
    rw [Nat.mod_mod]
  rw [hm, this]
  have h1 : m % 16 % 2 = m % 2 := by omega
  have h2 : m % 16 / 2 % 2 = m / 2 % 2 := by omega
  have h4 : m % 16 / 4 % 2 = m / 4 % 2 := by omega
  have h8 : m % 16 / 8 % 2 = m / 8 % 2 := by omega
  rw [h1, h2, h4, h8]

theorem popcount_eq_fastWeight (v : DataWord) : popcount v = fastWeight v.toNat := by
  have hp : popcount v = v.toNat % 2 + v.toNat / 2 % 2 + v.toNat / 4 % 2 + v.toNat / 8 % 2 + v.toNat / 16 % 2 +
      v.toNat / 32 % 2 + v.toNat / 64 % 2 + v.toNat / 128 % 2 + v.toNat / 256 % 2 + v.toNat / 512 % 2 +
      v.toNat / 1024 % 2 + v.toNat / 2048 % 2 := by
    have hb (p : Nat) : (if v.getLsbD p = true then 1 else 0) = v.toNat / 2 ^ p % 2 := by
      rw [BitVec.getLsbD, Nat.testBit_eq_decide_div_mod_eq]
      by_cases h : v.toNat / 2 ^ p % 2 = 1 <;> simp [h]; omega
    simp only [popcount, List.range_succ, List.range_zero, List.nil_append, List.countP_append, List.countP_singleton, hb]
    norm_num
  rw [hp, show fastWeight v.toNat =
    nibbleWeight v.toNat + (nibbleWeight (v.toNat / 16) + nibbleWeight (v.toNat / 256)) from rfl, nibbleWeight_eq, nibbleWeight_eq, nibbleWeight_eq]
  simp only [Nat.div_div_eq_div_mul, Nat.reduceMul]
  ring

/-- The rows of `DEFAULT_B` as numbers. -/
def defaultRows : List Nat :=
  [0xDC5, 0xB8B, 0x717, 0xE2D, 0xC5B, 0x8B7, 0x16F, 0x2DD, 0x5B9, 0xB71, 0x6E3, 0xFFE]

theorem foldl_eq_fastChk (x : DataWord) (rows : List DataWord) (n y : Nat) (hy : y < 2 ^ n) (hn : n + rows.length ≤ 12) :
    (rows.foldl (fun (y : DataWord) row => (y <<< 1) ||| parityBit 12 (x &&& row)) (BitVec.ofNat 12 y)).toNat =
      fastChk (rows.map BitVec.toNat) x.toNat y := by
  induction rows generalizing n y with
  | nil =>
    have : (2 : Nat) ^ n ≤ 2 ^ 12 := Nat.pow_le_pow_right (by decide) (by simpa using hn)
    simp only [List.foldl_nil, BitVec.toNat_ofNat, List.map_nil, fastChk]
    exact Nat.mod_eq_of_lt (by omega)
  | cons r rs ih =>
    simp only [List.length_cons] at hn
    have hstep : (BitVec.ofNat 12 y <<< 1) ||| parityBit 12 (x &&& r) =
        BitVec.ofNat 12 (2 * y + fastWeight (x.toNat &&& r.toNat) % 2) := by
      have hw : (parity (x &&& r)).toNat = fastWeight (x.toNat &&& r.toNat) % 2 := by
        rw [parity, popcount_eq_fastWeight, BitVec.toNat_and]
        rcases Nat.mod_two_eq_zero_or_one (fastWeight (x.toNat &&& r.toNat)) with h | h <;> simp [h]
      rw [parityBit, hw]
      have h2 : (2 : Nat) ^ (n + 1) ≤ 2 ^ 12 := Nat.pow_le_pow_right (by decide) (by omega)
      have hlt : fastWeight (x.toNat &&& r.toNat) % 2 < 2 := Nat.mod_lt _ (by decide)
      generalize fastWeight (x.toNat &&& r.toNat) % 2 = e at hlt
      rw [Nat.pow_succ] at h2
      apply BitVec.eq_of_toNat_eq
      have hor : (2 * y) ||| e = 2 * y + e := by
        rw [show 2 * y = 2 ^ 1 * y by ring]
        exact (Nat.two_pow_add_eq_or_of_lt (by simpa using hlt) y).symm
      simp only [BitVec.toNat_or, BitVec.toNat_shiftLeft, BitVec.toNat_ofNat, Nat.shiftLeft_eq]
      rw [Nat.mod_eq_of_lt (a := y) (by omega), Nat.mod_eq_of_lt (a := e) (by omega),
        Nat.mod_eq_of_lt (a := y * 2 ^ 1) (by omega), Nat.mod_eq_of_lt (a := 2 * y + e) (by omega),
        show y * 2 ^ 1 = 2 * y by ring, hor]
    rw [List.foldl_cons, hstep, List.map_cons]
    exact ih (n + 1) _ (by rw [Nat.pow_succ]; omega) (by omega)

theorem chk_default_toNat (x : DataWord) : (chk defaultB x).toNat = fastChk defaultRows x.toNat 0 := by
  have := foldl_eq_fastChk x defaultB.toList 0 0 (by decide) (by decide)
  rwa [show defaultB.toList.map BitVec.toNat = defaultRows by decide] at this

theorem selfInverse_scan : scan (fun x => Nat.beq (fastChk defaultRows (fastChk defaultRows x 0) 0) x) 12 0 = true := by
  decide +kernel

theorem distance_scan :
    scan (fun x => Nat.beq x 0 || Nat.ble 8 (Nat.add (fastWeight x) (fastWeight (fastChk defaultRows x 0)))) 12 0 = true := by
  decide +kernel

/-- `DEFAULT_B` has the properties GB1 to GB4. -/
theorem goodB_default : GoodB defaultB where
  symmetric := by decide
  selfInverse x := by
    apply BitVec.eq_of_toNat_eq
    rw [chk_default_toNat, chk_default_toNat]
    simpa using Nat.eq_of_beq_eq_true (scan_sound selfInverse_scan x.toNat x.isLt)
  distance x hx := by
    have h := scan_sound distance_scan x.toNat x.isLt
    have h0 : ¬x.toNat = 0 := fun h => hx (BitVec.eq_of_toNat_eq h)
    rw [popcount_eq_fastWeight, popcount_eq_fastWeight, chk_default_toNat]
    rw [Nat.zero_mul, Nat.zero_add, Bool.or_eq_true] at h
    rcases h with h | h
    · exact absurd (Nat.eq_of_beq_eq_true h) h0
    · exact Nat.le_of_ble_eq_true h
  rowWeight := by decide
  rowDistance := by decide +kernel

end Sys2Proof
end

