-- ==== Sys2Proof/Laws/State.lean ====
section
/-! SUPPORT. What each update of the state leaves in each field: one lemma per field and update, all by rfl. -/

namespace Sys2Proof.Machine

/-! ### setStat -/

@[simp] theorem State.setStat_config (s : State) (st : Stat) : (s.setStat st).config = s.config := rfl
@[simp] theorem State.setStat_stat (s : State) (st : Stat) : (s.setStat st).stat = st := rfl
@[simp] theorem State.setStat_run (s : State) (st : Stat) : (s.setStat st).run = s.run := rfl
@[simp] theorem State.setStat_requests (s : State) (st : Stat) : (s.setStat st).requests = s.requests := rfl
@[simp] theorem State.setStat_responses (s : State) (st : Stat) : (s.setStat st).responses = s.responses := rfl
@[simp] theorem State.setStat_results (s : State) (st : Stat) : (s.setStat st).results = s.results := rfl
@[simp] theorem State.setStat_streams (s : State) (st : Stat) : (s.setStat st).streams = s.streams := rfl

/-! ### clearStat -/

@[simp] theorem State.clearStat_config (s : State) : s.clearStat.config = s.config := rfl
@[simp] theorem State.clearStat_stat (s : State) : s.clearStat.stat = Stat.zero := rfl
@[simp] theorem State.clearStat_run (s : State) : s.clearStat.run = s.run := rfl
@[simp] theorem State.clearStat_requests (s : State) : s.clearStat.requests = s.requests := rfl
@[simp] theorem State.clearStat_responses (s : State) : s.clearStat.responses = s.responses := rfl
@[simp] theorem State.clearStat_results (s : State) : s.clearStat.results = s.results := rfl
@[simp] theorem State.clearStat_streams (s : State) : s.clearStat.streams = s.streams := rfl

/-! ### respond -/

@[simp] theorem State.respond_config (s : State) (r : Response) : (s.respond r).config = s.config := rfl
@[simp] theorem State.respond_stat (s : State) (r : Response) : (s.respond r).stat = s.stat := rfl
@[simp] theorem State.respond_run (s : State) (r : Response) : (s.respond r).run = s.run := rfl
@[simp] theorem State.respond_requests (s : State) (r : Response) : (s.respond r).requests = s.requests := rfl
@[simp] theorem State.respond_responses (s : State) (r : Response) : (s.respond r).responses = s.responses ++ [r] := rfl
@[simp] theorem State.respond_results (s : State) (r : Response) : (s.respond r).results = s.results := rfl
@[simp] theorem State.respond_streams (s : State) (r : Response) : (s.respond r).streams = s.streams := rfl

/-! ### answerIllegal -/

@[simp] theorem State.answerIllegal_config (s : State) : s.answerIllegal.config = s.config := rfl
@[simp] theorem State.answerIllegal_stat (s : State) : s.answerIllegal.stat = s.stat := rfl
@[simp] theorem State.answerIllegal_run (s : State) : s.answerIllegal.run = s.run := rfl
@[simp] theorem State.answerIllegal_requests (s : State) : s.answerIllegal.requests = s.requests := rfl
@[simp] theorem State.answerIllegal_responses (s : State) :
    s.answerIllegal.responses = s.responses ++ [.rn statusIllegal] := rfl
@[simp] theorem State.answerIllegal_results (s : State) : s.answerIllegal.results = s.results := rfl
@[simp] theorem State.answerIllegal_streams (s : State) : s.answerIllegal.streams = s.streams := rfl

/-! ### setRequests -/

@[simp] theorem State.setRequests_config (s : State) (q : List Request) : (s.setRequests q).config = s.config := rfl
@[simp] theorem State.setRequests_stat (s : State) (q : List Request) : (s.setRequests q).stat = s.stat := rfl
@[simp] theorem State.setRequests_run (s : State) (q : List Request) : (s.setRequests q).run = s.run := rfl
@[simp] theorem State.setRequests_requests (s : State) (q : List Request) : (s.setRequests q).requests = q := rfl
@[simp] theorem State.setRequests_responses (s : State) (q : List Request) :
    (s.setRequests q).responses = s.responses := rfl
@[simp] theorem State.setRequests_results (s : State) (q : List Request) : (s.setRequests q).results = s.results := rfl
@[simp] theorem State.setRequests_streams (s : State) (q : List Request) : (s.setRequests q).streams = s.streams := rfl

/-! ### setSrc -/

@[simp] theorem State.setSrc_config (s : State) (i : InStream) : (s.setSrc i).config = s.config := rfl
@[simp] theorem State.setSrc_stat (s : State) (i : InStream) : (s.setSrc i).stat = s.stat := rfl
@[simp] theorem State.setSrc_run (s : State) (i : InStream) : (s.setSrc i).run = s.run := rfl
@[simp] theorem State.setSrc_requests (s : State) (i : InStream) : (s.setSrc i).requests = s.requests := rfl
@[simp] theorem State.setSrc_responses (s : State) (i : InStream) : (s.setSrc i).responses = s.responses := rfl
@[simp] theorem State.setSrc_results (s : State) (i : InStream) : (s.setSrc i).results = s.results := rfl
@[simp] theorem State.setSrc_streams (s : State) (i : InStream) : (s.setSrc i).streams = { s.streams with src := i } := rfl

/-! ### setSlIn -/

@[simp] theorem State.setSlIn_config (s : State) (k : Fin 8) (i : InStream) : (s.setSlIn k i).config = s.config := rfl
@[simp] theorem State.setSlIn_stat (s : State) (k : Fin 8) (i : InStream) : (s.setSlIn k i).stat = s.stat := rfl
@[simp] theorem State.setSlIn_run (s : State) (k : Fin 8) (i : InStream) : (s.setSlIn k i).run = s.run := rfl
@[simp] theorem State.setSlIn_requests (s : State) (k : Fin 8) (i : InStream) : (s.setSlIn k i).requests = s.requests := rfl
@[simp] theorem State.setSlIn_responses (s : State) (k : Fin 8) (i : InStream) :
    (s.setSlIn k i).responses = s.responses := rfl
@[simp] theorem State.setSlIn_results (s : State) (k : Fin 8) (i : InStream) : (s.setSlIn k i).results = s.results := rfl
@[simp] theorem State.setSlIn_streams (s : State) (k : Fin 8) (i : InStream) :
    (s.setSlIn k i).streams = { s.streams with slIn := s.streams.slIn.set k i } := rfl

/-! ### setSlOut -/

@[simp] theorem State.setSlOut_config (s : State) (k : Fin 8) (o : OutStream) : (s.setSlOut k o).config = s.config := rfl
@[simp] theorem State.setSlOut_stat (s : State) (k : Fin 8) (o : OutStream) : (s.setSlOut k o).stat = s.stat := rfl
@[simp] theorem State.setSlOut_run (s : State) (k : Fin 8) (o : OutStream) : (s.setSlOut k o).run = s.run := rfl
@[simp] theorem State.setSlOut_requests (s : State) (k : Fin 8) (o : OutStream) :
    (s.setSlOut k o).requests = s.requests := rfl
@[simp] theorem State.setSlOut_responses (s : State) (k : Fin 8) (o : OutStream) :
    (s.setSlOut k o).responses = s.responses := rfl
@[simp] theorem State.setSlOut_results (s : State) (k : Fin 8) (o : OutStream) : (s.setSlOut k o).results = s.results := rfl
@[simp] theorem State.setSlOut_streams (s : State) (k : Fin 8) (o : OutStream) :
    (s.setSlOut k o).streams = { s.streams with slOut := s.streams.slOut.set k o } := rfl

/-! ### writeOut -/

@[simp] theorem State.writeOut_config (s : State) (bs : List Byte) : (s.writeOut bs).config = s.config := rfl
@[simp] theorem State.writeOut_stat (s : State) (bs : List Byte) : (s.writeOut bs).stat = s.stat := rfl
@[simp] theorem State.writeOut_run (s : State) (bs : List Byte) : (s.writeOut bs).run = s.run := rfl
@[simp] theorem State.writeOut_requests (s : State) (bs : List Byte) : (s.writeOut bs).requests = s.requests := rfl
@[simp] theorem State.writeOut_responses (s : State) (bs : List Byte) : (s.writeOut bs).responses = s.responses := rfl
@[simp] theorem State.writeOut_results (s : State) (bs : List Byte) : (s.writeOut bs).results = s.results := rfl
@[simp] theorem State.writeOut_streams (s : State) (bs : List Byte) :
    (s.writeOut bs).streams = { s.streams with out := s.streams.out ++ bs } := rfl

/-! ### openEncode -/

@[simp] theorem State.openEncode_config (s : State) (src : List Byte) (sl : Vector (Option (List WriteAnswer)) 8) :
    (s.openEncode src sl).config = s.config := rfl
@[simp] theorem State.openEncode_stat (s : State) (src : List Byte) (sl : Vector (Option (List WriteAnswer)) 8) :
    (s.openEncode src sl).stat = s.stat := rfl
@[simp] theorem State.openEncode_run (s : State) (src : List Byte) (sl : Vector (Option (List WriteAnswer)) 8) :
    (s.openEncode src sl).run = s.run := rfl
@[simp] theorem State.openEncode_requests (s : State) (src : List Byte) (sl : Vector (Option (List WriteAnswer)) 8) :
    (s.openEncode src sl).requests = s.requests := rfl
@[simp] theorem State.openEncode_responses (s : State) (src : List Byte) (sl : Vector (Option (List WriteAnswer)) 8) :
    (s.openEncode src sl).responses = s.responses := rfl
@[simp] theorem State.openEncode_results (s : State) (src : List Byte) (sl : Vector (Option (List WriteAnswer)) 8) :
    (s.openEncode src sl).results = s.results := rfl
@[simp] theorem State.openEncode_streams (s : State) (src : List Byte) (sl : Vector (Option (List WriteAnswer)) 8) :
    (s.openEncode src sl).streams = { s.streams with src := ⟨src, 0⟩, slOut := Vector.ofFn fun k => ⟨[], sl[k].getD []⟩ } := rfl

/-! ### openDecode -/

@[simp] theorem State.openDecode_config (s : State) (sl : Vector (Option (List Byte)) 8) :
    (s.openDecode sl).config = s.config := rfl
@[simp] theorem State.openDecode_stat (s : State) (sl : Vector (Option (List Byte)) 8) :
    (s.openDecode sl).stat = s.stat := rfl
@[simp] theorem State.openDecode_run (s : State) (sl : Vector (Option (List Byte)) 8) : (s.openDecode sl).run = s.run := rfl
@[simp] theorem State.openDecode_requests (s : State) (sl : Vector (Option (List Byte)) 8) :
    (s.openDecode sl).requests = s.requests := rfl
@[simp] theorem State.openDecode_responses (s : State) (sl : Vector (Option (List Byte)) 8) :
    (s.openDecode sl).responses = s.responses := rfl
@[simp] theorem State.openDecode_results (s : State) (sl : Vector (Option (List Byte)) 8) :
    (s.openDecode sl).results = s.results := rfl
@[simp] theorem State.openDecode_streams (s : State) (sl : Vector (Option (List Byte)) 8) :
    (s.openDecode sl).streams = { s.streams with slIn := Vector.ofFn fun k => ⟨sl[k].getD [], 0⟩, out := [] } := rfl

/-! ### setRun -/

@[simp] theorem State.setRun_config (s : State) (r : Option Run) : (s.setRun r).config = s.config := rfl
@[simp] theorem State.setRun_stat (s : State) (r : Option Run) : (s.setRun r).stat = s.stat := rfl
@[simp] theorem State.setRun_run (s : State) (r : Option Run) : (s.setRun r).run = r := rfl
@[simp] theorem State.setRun_requests (s : State) (r : Option Run) : (s.setRun r).requests = s.requests := rfl
@[simp] theorem State.setRun_responses (s : State) (r : Option Run) : (s.setRun r).responses = s.responses := rfl
@[simp] theorem State.setRun_results (s : State) (r : Option Run) : (s.setRun r).results = s.results := rfl
@[simp] theorem State.setRun_streams (s : State) (r : Option Run) : (s.setRun r).streams = s.streams := rfl

/-! ### finish -/

@[simp] theorem State.finish_config (s : State) (o : RunOutcome) (p : Bool) : (s.finish o p).config = s.config := rfl
@[simp] theorem State.finish_stat (s : State) (o : RunOutcome) (p : Bool) : (s.finish o p).stat = s.stat := rfl
@[simp] theorem State.finish_run (s : State) (o : RunOutcome) (p : Bool) : (s.finish o p).run = none := rfl
@[simp] theorem State.finish_requests (s : State) (o : RunOutcome) (p : Bool) : (s.finish o p).requests = s.requests := rfl
@[simp] theorem State.finish_responses (s : State) (o : RunOutcome) (p : Bool) :
    (s.finish o p).responses = s.responses := rfl
@[simp] theorem State.finish_results (s : State) (o : RunOutcome) (p : Bool) :
    (s.finish o p).results = s.results ++ [⟨o, p, s.stat⟩] := rfl
@[simp] theorem State.finish_streams (s : State) (o : RunOutcome) (p : Bool) : (s.finish o p).streams = s.streams := rfl

/-! ### hardwareReset -/

@[simp] theorem State.hardwareReset_config (s : State) : s.hardwareReset.config = s.config := rfl
@[simp] theorem State.hardwareReset_stat (s : State) : s.hardwareReset.stat = Stat.zero := rfl
@[simp] theorem State.hardwareReset_run (s : State) : s.hardwareReset.run = none := rfl
@[simp] theorem State.hardwareReset_requests (s : State) : s.hardwareReset.requests = [] := rfl
@[simp] theorem State.hardwareReset_responses (s : State) : s.hardwareReset.responses = s.responses := rfl
@[simp] theorem State.hardwareReset_results (s : State) : s.hardwareReset.results = s.results := rfl
@[simp] theorem State.hardwareReset_streams (s : State) : s.hardwareReset.streams = s.streams := rfl

end Sys2Proof.Machine
end

