-- ==== Sys2Proof/Laws/Ops.lean ====
section
/-! SUPPORT. For each shared operation, what it does, said once: the stream primitives, the counters, the four bit mappings,
and the cases of a step. -/

namespace Sys2Proof.Machine

/-! ### Stream primitives -/

/-- `StreamRead` gives the next bytes in order, at most `n` and at most what remains, and moves the cursor past them. -/
theorem InStream.read_spec (i : InStream) (n : Nat) :
    (i.read n).1 = (i.bytes.drop i.cursor).take n ∧ (i.read n).1.length = min n (i.bytes.length - i.cursor) ∧
    (i.read n).2.bytes = i.bytes ∧ (i.read n).2.cursor = i.cursor + (i.read n).1.length := by
  refine ⟨rfl, ?_, rfl, rfl⟩
  simp [InStream.read]

/-- `StreamWrite` appends a prefix of the bytes, the whole of them when it answers `ok`, and uses up one answer. -/
theorem OutStream.write_spec (o : OutStream) (bs : List Byte) :
    (∃ n, (o.write bs).2.bytes = o.bytes ++ bs.take n) ∧
    ((o.write bs).1 = true → (o.write bs).2.bytes = o.bytes ++ bs) ∧
    (o.write bs).2.answers = o.answers.tail := by
  unfold OutStream.write
  split
  · exact ⟨⟨bs.length, by simp⟩, fun _ => rfl, by simp_all⟩
  · exact ⟨⟨bs.length, by simp⟩, fun _ => rfl, by simp_all⟩
  · exact ⟨⟨_, rfl⟩, by simp, by simp_all⟩

/-- A write fails exactly when the host's next answer is a failure. -/
theorem OutStream.write_fails_iff (o : OutStream) (bs : List Byte) :
    (o.write bs).1 = false ↔ ∃ n rest, o.answers = .fail n :: rest := by
  unfold OutStream.write
  split <;> simp_all

/-! ### Counters -/

/-- A counter addition leaves every counter below `2^CNT_W`. -/
theorem Stat.add_lt (c : Config) (st : Stat) (d : Delta) :
    (st.add c d).processed < 2 ^ c.cntW ∧ (st.add c d).corrected < 2 ^ c.cntW ∧
    (st.add c d).uncorrectable < 2 ^ c.cntW :=
  ⟨Nat.mod_lt _ (Nat.two_pow_pos _), Nat.mod_lt _ (Nat.two_pow_pos _), Nat.mod_lt _ (Nat.two_pow_pos _)⟩

/-! ### The four bit mappings -/

@[simp] theorem getLsbD_plane (blk : Block) (i j : Nat) :
    (plane blk i).getLsbD j = (decide (j < 12) && (byteAt blk j).getLsbD i) := by
  simp [plane]

/-- Scatter sets the plane's bit where the codeword has a 1 and leaves every other bit as it was. -/
theorem getLsbD_scatter (sl : Slices) (cw : Codeword) (i : Nat) (k : Fin 8) (t : Fin 3) (p : Nat) (hi : i < 8) :
    (scatter sl cw i)[k][t].getLsbD p = (sl[k][t].getLsbD p || (decide (p = i) && cw.getLsbD (3 * k.val + t.val))) := by
  simp only [scatter, Fin.getElem_fin, Vector.getElem_ofFn]
  by_cases h : cw.getLsbD (3 * k.val + t.val) = true
  · simp only [h, if_true, BitVec.getLsbD_or, Bool.and_true]
    congr 1
    by_cases hp : p = i
    · subst hp; simp [hi]
    · simp [hp]; omega
  · simp [h]

/-- Deposit sets the plane's bit where the data word has a 1 and leaves every other bit as it was. -/
theorem getLsbD_deposit (out : Block) (d : DataWord) (i : Nat) (j : Fin 12) (p : Nat) (hi : i < 8) :
    (deposit out d i)[j].getLsbD p = (out[j].getLsbD p || (decide (p = i) && d.getLsbD j.val)) := by
  simp only [deposit, Fin.getElem_fin, Vector.getElem_ofFn]
  by_cases h : d.getLsbD j.val = true
  · simp only [h, if_true, BitVec.getLsbD_or, Bool.and_true]
    congr 1
    by_cases hp : p = i
    · subst hp; simp [hi]
    · simp [hp]; omega
  · rw [if_neg h, Bool.eq_false_of_not_eq_true h, Bool.and_false, Bool.or_false]

/-! ### A step -/

/-- With a run in progress a step is a step of the run. -/
theorem step_of_run {s : State} {r : Run} (h : s.run = some r) : step s = .next (stepRun r s) := by
  simp [step, h]

/-- With no run in progress and no request the core waits. -/
theorem step_idle {s : State} (hr : s.run = none) (hq : s.requests = []) : step s = .next s := by
  simp [step, hr, hq]

/-- With no run in progress the next request is taken off the queue and served. -/
theorem step_request {s : State} {q : Request} {rest : List Request} (hr : s.run = none) (hq : s.requests = q :: rest) :
    step s = serve q (s.setRequests rest) := by
  simp [step, hr, hq]

end Sys2Proof.Machine
end

