-- ==== Sys2Proof/Laws/PerInstr.lean ====
section
/-! SUPPORT. Per instruction: the frame the encoder gives it has the length its opcode fixes (spec 30_encoding.md R49, R56). -/

namespace Sys2Proof.Laws.EncodeShape

/-- The frame of `i` is as long as its opcode field says. -/
def Statement (i : Instr) : Prop := (encode i).len = frameLength (encode i).opcode

/-- The opcode field of a frame whose low 4 bits are `op`. -/
theorem opcode_append {n : Nat} (v : BitVec n) (op : BitVec 4) : (⟨n + 4, v ++ op⟩ : Frame).opcode = op := by
  apply BitVec.eq_of_getLsbD_eq
  intro p hp
  simp [Frame.opcode, BitVec.getLsbD_append, hp]

/-- The same with one more field between. -/
theorem opcode_append_append {n m : Nat} (v : BitVec n) (u : BitVec m) (op : BitVec 4) :
    (⟨n + (m + 4), v ++ (u ++ op)⟩ : Frame).opcode = op := by
  apply BitVec.eq_of_getLsbD_eq
  intro p hp
  have hm : p < m + 4 := by omega
  rw [Frame.opcode, BitVec.getLsbD_extractLsb', BitVec.getLsbD_append, BitVec.getLsbD_append]
  simp [hp, hm]

theorem enc (w : BitVec 24) : Statement (.enc w) := by
  rw [Statement, encode, opcode_append w 0x1#4]; rfl

theorem dec (w : BitVec 24) : Statement (.dec w) := by
  rw [Statement, encode, opcode_append w 0x2#4]; rfl

theorem encblk (blk : Block) : Statement (.encblk blk) := by
  rw [Statement, encode, opcode_append (packBlock blk) 0x3#4]; rfl

theorem decblk (present : BitVec 8) (sl : Slices) : Statement (.decblk present sl) := by
  rw [Statement, encode, opcode_append_append (packSlices sl) present 0x4#4]; rfl

theorem pad (len : BitVec 4) (chunk : Block) : Statement (.pad len chunk) := by
  rw [Statement, encode, opcode_append_append (packBlock chunk) len 0x5#4]; rfl

theorem unpad (blk : Block) : Statement (.unpad blk) := by
  rw [Statement, encode, opcode_append (packBlock blk) 0x6#4]; rfl

theorem rdstat : Statement .rdstat := by unfold Statement; decide

theorem clrstat : Statement .clrstat := by unfold Statement; decide

theorem reserved0 : Statement .reserved0 := by unfold Statement; decide

theorem reserved9 : Statement .reserved9 := by unfold Statement; decide

theorem reservedA : Statement .reservedA := by unfold Statement; decide

theorem reservedB : Statement .reservedB := by unfold Statement; decide

theorem reservedC : Statement .reservedC := by unfold Statement; decide

theorem reservedD : Statement .reservedD := by unfold Statement; decide

theorem reservedE : Statement .reservedE := by unfold Statement; decide

theorem reservedF : Statement .reservedF := by unfold Statement; decide

end Sys2Proof.Laws.EncodeShape
end

