-- ==== Sys2Proof/Tests/Slice0.lean ====
section
/-! SUPPORT. Tests with results from spec/95_test_vectors.md or worked by hand from the rules (frames, one step each, ill-formed
terms), and for each statement with hypotheses a witness that meets them. -/

open Sys2Proof Sys2Proof.Machine Sys2Proof.Claims

namespace Sys2Proof.Tests

/-! ### Helpers -/

/-- A core just reset whose host asks for `q`. -/
def asked (q : Request) : State := { State.reset with requests := [q] }

/-- The same with these counters, and a command frame of `len` bits. -/
def commanded (st : Stat) (len v : Nat) : State :=
  { asked (.command ⟨len, BitVec.ofNat len v⟩) with stat := st }

/-- A core just reset but for a run in progress. -/
def running (r : Run) : State := { State.reset with run := some r }

/-- The responses and the counters after one step that goes on. -/
def answer (s : State) : Option (List Response × Stat) :=
  match step s with
  | .next t => some (t.responses, t.stat)
  | _ => none

/-- The run results after one step that goes on. -/
def resultsOf (s : State) : Option (List RunResult) :=
  match step s with
  | .next t => some t.results
  | _ => none

/-- "Hello, World" (V4). -/
def hello : Block := #v[0x48, 0x65, 0x6C, 0x6C, 0x6F, 0x2C, 0x20, 0x57, 0x6F, 0x72, 0x6C, 0x64]

/-- `41 42 ... 4C` (V7). -/
def letters : Block := #v[0x41, 0x42, 0x43, 0x44, 0x45, 0x46, 0x47, 0x48, 0x49, 0x4A, 0x4B, 0x4C]

/-- The slices of "Hello, World" (V4). -/
def helloSlices : Slices :=
  #v[#v[0x44, 0x68, 0x52], #v[0x33, 0x22, 0x4E], #v[0x31, 0x06, 0x1E], #v[0x5F, 0x6F, 0x34],
    #v[0x48, 0x65, 0x6C], #v[0x6C, 0x6F, 0x2C], #v[0x20, 0x57, 0x6F], #v[0x72, 0x6C, 0x64]]

/-- Eight open slice outputs that answer `ok` always. -/
def open8 : Vector (Option (List WriteAnswer)) 8 := Vector.replicate 8 (some [])

/-- Seven slice inputs of these bytes, slice 7 absent. -/
def seven (bytes : List Byte) : Vector (Option (List Byte)) 8 := (Vector.replicate 8 (some bytes)).set 7 none

/-- A decode run with slices 0 to 6 present, before any read. -/
def freshDecode : DecodeRun :=
  { phase := .read 0, present := 0x7F#8, got := nothingRead, prev := none, lossy := false, padAnomaly := false,
    terminal := false }

/-- The same in its terminal iteration with a block held in arrears. -/
def lastDecode (prev : Option Block) : DecodeRun := { freshDecode with phase := .block, prev := prev, terminal := true }

/-! ### Decoding: one frame per constructor, from V8 (absent payload zero), or by hand from R50 and R51 -/

theorem test_decode_enc : decodeTableWord 32 0x5A5ABC1 = some (.enc 0x5A5ABC#24) := by decide

theorem test_decode_dec : decodeTableWord 32 0xBBDBB32 = some (.dec 0xBBDBB3#24) := by decide

theorem test_decode_encblk : decodeTableWord 104 0x646C726F57202C6F6C6C65483 = some (.encblk hello) := by decide

theorem test_decode_decblk : decodeTableWord 208 0x646C726F57200000006C6548346F5F1E06314E2233526844DF4 =
    some (.decblk 0xDF#8 (helloSlices.set 5 #v[0, 0, 0])) := by decide

theorem test_decode_pad : decodeTableWord 104 0xD5 = some (.pad 0xD#4 (Vector.replicate 12 0#8)) := by decide

theorem test_decode_unpad : decodeTableWord 104 0x4C4B4A4948474645444342416 = some (.unpad letters) := by decide

theorem test_decode_rdstat : decodeTableWord 8 0x7 = some .rdstat := by decide

theorem test_decode_clrstat : decodeTableWord 8 0x8 = some .clrstat := by decide

theorem test_decode_reserved0 : decodeTableWord 8 0x0 = some .reserved0 := by decide

theorem test_decode_reserved9 : decodeTableWord 8 0x9 = some .reserved9 := by decide

theorem test_decode_reservedA : decodeTableWord 8 0xA = some .reservedA := by decide

theorem test_decode_reservedB : decodeTableWord 8 0xB = some .reservedB := by decide

theorem test_decode_reservedC : decodeTableWord 8 0xC = some .reservedC := by decide

theorem test_decode_reservedD : decodeTableWord 8 0xD = some .reservedD := by decide

theorem test_decode_reservedE : decodeTableWord 8 0xE = some .reservedE := by decide

theorem test_decode_reservedF : decodeTableWord 8 0xF = some .reservedF := by decide

/-- A frame one bit too short for its opcode, one too long, and one without an opcode field. -/
theorem test_decode_rejects :
    decodeFrame ⟨27, 0x1#27⟩ = .error .wrongLength ∧ decodeFrame ⟨5, 0x7#5⟩ = .error .wrongLength ∧
      decodeFrame ⟨3, 0x7#3⟩ = .error .noOpcode := by decide

/-- The encoder gives the frame of V8 back. -/
theorem test_encode_pad : encode (.pad 0x1#4 #v[0x4D, 0, 0, 0, 0, 0, 0, 0, 0, 0, 0, 0]) = ⟨104, 0x4D15#104⟩ := by
  decide +kernel

/-! ### Ill-formed terms -/

/-- `PAD` with `len` 12 and 15 is refused, with 11 it is not (R58). -/
theorem test_wellFormed_pad :
    (Instr.pad 12#4 hello).wellFormed = false ∧ (Instr.pad 15#4 hello).wellFormed = false ∧
      (Instr.pad 11#4 hello).wellFormed = true := by decide

/-- The reserved opcodes name no operation (R57). -/
theorem test_wellFormed_reserved :
    [Instr.reserved0, .reserved9, .reservedA, .reservedB, .reservedC, .reservedD, .reservedE, .reservedF].map
      Instr.wellFormed = List.replicate 8 false := by decide

/-! ### One step of a command -/

/-- V1: the upper half of the operand is ignored. -/
theorem test_enc_masks : answer (commanded ⟨0, 0, 0⟩ 28 0x5A5ABC1) = some ([.rw 0 0xABCBF3#24], ⟨0, 0, 0⟩) := by decide +kernel

/-- V2, last row: stage 6. -/
theorem test_dec_stage6 : answer (commanded ⟨1, 0, 0⟩ 28 0xBBDBB32) = some ([.rw 0 0xABC#24], ⟨2, 1, 0⟩) := by decide +kernel

/-- V3, first row: Uncorrectable; the counters wrap at `2^32` (R17). -/
theorem test_dec_unc :
    answer (commanded ⟨0xFFFFFFFF, 1, 0⟩ 28 0xABCBFC2) = some ([.rw 1 0#24], ⟨0, 1, 1⟩) := by decide +kernel

/-- V4, row "Hello, World". -/
theorem test_encblk_hello :
    answer (commanded ⟨0, 0, 0⟩ 100 0x646C726F57202C6F6C6C65483) = some ([.rs 0 helloSlices], ⟨0, 0, 0⟩) := by decide +kernel

/-- V6, slices 4 and 5 absent: a silently wrong block. -/
theorem test_decblk_two_absent :
    answer (commanded ⟨0, 0, 0⟩ 204 0x646C726F5720000000000000346F5F1E06314E2233526844CF4) =
      some ([.rb 0 #v[0x00, 0x01, 0x00, 0x00, 0x03, 0x00, 0x20, 0x57, 0x6F, 0x72, 0x48, 0x64]], ⟨8, 6, 0⟩) := by
  decide +kernel

/-- V6, slices 0 and 5 absent: three planes Uncorrectable and left 0. -/
theorem test_decblk_unc :
    answer (commanded ⟨8, 6, 0⟩ 204 0x646C726F57200000006C6548346F5F1E06314E2233000000DE4) =
      some ([.rb 1 #v[0x40, 0x01, 0x40, 0x00, 0x03, 0x00, 0x00, 0x53, 0x43, 0x52, 0x40, 0x40]], ⟨16, 10, 3⟩) := by
  decide +kernel

/-- V7: one byte of data, eleven of value 0B. -/
theorem test_pad_one : answer (commanded ⟨1, 1, 0⟩ 104 0x4D15) =
    some ([.rb 0 #v[0x4D, 0x0B, 0x0B, 0x0B, 0x0B, 0x0B, 0x0B, 0x0B, 0x0B, 0x0B, 0x0B, 0x0B]], ⟨1, 1, 0⟩) := by
  decide +kernel

/-- V7: `len = 13` is answered `ILLEGAL`. -/
theorem test_pad_illegal : answer (commanded ⟨1, 1, 0⟩ 104 0xD5) = some ([.rn 4], ⟨1, 1, 0⟩) := by decide +kernel

/-- V7: only the last byte is looked at. -/
theorem test_unpad_last_byte : answer (commanded ⟨0, 0, 0⟩ 100 0x0B0A090807060504030201006) =
    some ([.rp 0 1#4 (Vector.replicate 12 0#8)], ⟨0, 0, 0⟩) := by decide +kernel

/-- V7: last byte 76, all 12 bytes kept. -/
theorem test_unpad_anomaly : answer (commanded ⟨0, 0, 0⟩ 100 0x4C4B4A4948474645444342416) =
    some ([.rp 2 12#4 letters], ⟨0, 0, 0⟩) := by decide +kernel

/-- V8: the counters (3, 1, 1). -/
theorem test_rdstat : answer (commanded ⟨3, 1, 1⟩ 4 0x7) = some ([.rc 0 3 1 1], ⟨3, 1, 1⟩) := by decide +kernel

theorem test_clrstat : answer (commanded ⟨3, 1, 1⟩ 4 0x8) = some ([.rn 0], ⟨0, 0, 0⟩) := by decide +kernel

/-- P6: a reserved opcode. -/
theorem test_reservedF : answer (commanded ⟨3, 1, 1⟩ 4 0xF) = some ([.rn 4], ⟨3, 1, 1⟩) := by decide +kernel

/-- V8: the frames of the `RDSTAT`, `UNPAD` and `DEC` responses. -/
theorem test_response_frames :
    (Response.rc 0 3 1 1).frame Config.default = ⟨100, 0x0000000100000001000000030#100⟩ ∧
    (Response.rp 2 12#4 letters).frame Config.default = ⟨104, 0x4C4B4A494847464544434241C2#104⟩ ∧
    (Response.rw 1 0#24).frame Config.default = ⟨28, 0x0000001#28⟩ := by decide +kernel

/-- V8: the frame of the `ENCBLK` response. -/
theorem test_response_frame_encblk :
    (Response.rs 0 helloSlices).frame Config.default = ⟨196, 0x646C726F57202C6F6C6C6548346F5F1E06314E22335268440#196⟩ := by
  decide +kernel

/-- A table word placed for the next step is run by it, although a run was in progress. -/
theorem test_withFetchWord :
    answer ((running (.decode freshDecode)).withFetchWord 8 0x7) = some ([.rc 0 0 0 0], ⟨0, 0, 0⟩) := by decide +kernel

/-- A bit vector that is no command frame is refused by name (R49). -/
theorem test_not_a_frame :
    (match step (commanded ⟨0, 0, 0⟩ 5 0x7) with | .refused r => some r | _ => none) =
      some (.notACommandFrame .wrongLength) := by decide +kernel

/-! ### One step of a run (V10) -/

/-- The source is checked before the slices. -/
theorem test_encode_no_source :
    resultsOf (asked (.encodeRun none (open8.set 3 none))) = some [⟨.inputOpenFailure, false, ⟨0, 0, 0⟩⟩] := by decide

theorem test_encode_no_slice :
    resultsOf (asked (.encodeRun (some []) (open8.set 3 none))) = some [⟨.outputsUnavailable, false, ⟨0, 0, 0⟩⟩] := by decide

theorem test_decode_six_slices :
    resultsOf (asked (.decodeRun ((seven [1, 2, 3]).set 0 none))) = some [⟨.insufficientInputs, false, ⟨0, 0, 0⟩⟩] := by
  decide

/-! ### Witnesses: for each statement with hypotheses, a state and operands that meet them -/

theorem witness_EncodeOfDecode : decodeFrame ⟨28, 0x000ABC1#28⟩ = .ok (.enc 0xABC#24) := by decide

theorem witness_StepRunsDecodedCommand :
    (commanded ⟨0, 0, 0⟩ 28 0x000ABC1).run = none ∧
    (commanded ⟨0, 0, 0⟩ 28 0x000ABC1).requests = [.command ⟨28, 0x000ABC1#28⟩] ∧
    decodeFrame ⟨28, 0x000ABC1#28⟩ = .ok (.enc 0xABC#24) := by decide

/-- Stage 3 at its threshold: V2, mask 0x000821. -/
theorem witness_DecFollowsStages_3 : popcount (syndrome State.reset.config.b 0xABC3D2#24) = 3 := by decide

/-- Stage 4 at rows 0 and 11: V2, masks 0x800088 and 0x001000. -/
theorem witness_DecFollowsStages_4 :
    (3 < popcount (syndrome State.reset.config.b 0x2BCB7B#24) ∧
      FirstNear State.reset.config.b (syndrome State.reset.config.b 0x2BCB7B#24) 0) ∧
    3 < popcount (syndrome State.reset.config.b 0xABDBF3#24) ∧
      FirstNear State.reset.config.b (syndrome State.reset.config.b 0xABDBF3#24) 11 := by
  unfold FirstNear; decide +kernel

/-- Stage 5 at its threshold: V2, mask 0x444000. -/
theorem witness_DecFollowsStages_5 :
    3 < popcount (syndrome State.reset.config.b 0xEF8BF3#24) ∧
    NoneNear State.reset.config.b (syndrome State.reset.config.b 0xEF8BF3#24) ∧
    popcount (chk State.reset.config.b (syndrome State.reset.config.b 0xEF8BF3#24)) = 3 := by
  unfold NoneNear; decide +kernel

/-- Stage 6 at row 5: V2, mask 0x101040. -/
theorem witness_DecFollowsStages_6 :
    3 < popcount (syndrome State.reset.config.b 0xBBDBB3#24) ∧
    NoneNear State.reset.config.b (syndrome State.reset.config.b 0xBBDBB3#24) ∧
    3 < popcount (chk State.reset.config.b (syndrome State.reset.config.b 0xBBDBB3#24)) ∧
    FirstNear State.reset.config.b (chk State.reset.config.b (syndrome State.reset.config.b 0xBBDBB3#24)) 5 := by
  unfold NoneNear FirstNear; decide +kernel

/-- Stage 7: V3, first row. -/
theorem witness_DecFollowsStages_7 :
    3 < popcount (syndrome State.reset.config.b 0xABCBFC#24) ∧
    NoneNear State.reset.config.b (syndrome State.reset.config.b 0xABCBFC#24) ∧
    3 < popcount (chk State.reset.config.b (syndrome State.reset.config.b 0xABCBFC#24)) ∧
    NoneNear State.reset.config.b (chk State.reset.config.b (syndrome State.reset.config.b 0xABCBFC#24)) := by
  unfold NoneNear; decide +kernel

/-- Planes of both outcomes in one block: V6, slices 0 and 5 absent. -/
theorem witness_DecblkGathersAndDecodes :
    (∃ i < 8, ∃ d, (decodeWord State.reset.config.b (received 0xDE#8 helloSlices i)).1 = .data d) ∧
    ∃ i < 8, (decodeWord State.reset.config.b (received 0xDE#8 helloSlices i)).1 = .uncorrectable :=
  ⟨⟨7, by decide, 0#12, by decide +kernel⟩, 2, by decide, by decide +kernel⟩

theorem witness_PadPadsOrIsIllegal :
    (0#4).toNat ≤ 11 ∧ (11#4).toNat ≤ 11 ∧ 12 ≤ (12#4).toNat ∧ 12 ≤ (15#4).toNat := by decide

/-- Pad bytes 1, 12, 0 and 13. -/
theorem witness_UnpadStripsOrFlags :
    (hello.set 11 1#8)[11].toNat = 1 ∧ (hello.set 11 12#8)[11].toNat = 12 ∧
    (hello.set 11 0#8)[11].toNat = 0 ∧ (hello.set 11 13#8)[11].toNat = 13 := by decide

theorem witness_IgnoredFieldsDoNotMatter :
    ((0x5A5ABC#24).extractLsb' 0 12 : DataWord) = (0x000ABC#24).extractLsb' 0 12 ∧
    (∀ k : Fin 8, (0xDF#8).getLsbD k.val = true → helloSlices[k] = (helloSlices.set 5 #v[0, 0, 0])[k]) ∧
    ∀ j : Fin 12, j.val < (4#4).toNat → hello[j] = (hello.set 4 0#8)[j] := by decide

theorem witness_ChkLaws :
    ∀ i c : Fin 12, defaultB[i].getLsbD (11 - c.val) = defaultB[c].getLsbD (11 - i.val) := goodB_default.symmetric

theorem witness_RowBoundsFollow :
    (∀ i c : Fin 12, defaultB[i].getLsbD (11 - c.val) = defaultB[c].getLsbD (11 - i.val)) ∧
    ∀ x : DataWord, x ≠ 0#12 → 8 ≤ popcount x + popcount (chk defaultB x) :=
  ⟨goodB_default.symmetric, goodB_default.distance⟩

/-- V1: the codewords of 0x555 and 0xAAA. -/
theorem witness_EncodeIsLinear :
    validCodeword defaultB 0x555B43#24 = true ∧ validCodeword defaultB 0xAAA4BC#24 = true := by decide

/-- V1: the codewords of 0x002 and 0xFFF. -/
theorem witness_CodewordsAreFarApart :
    (∀ x : DataWord, x ≠ 0#12 → 8 ≤ popcount x + popcount (chk defaultB x)) ∧
    validCodeword defaultB 0x0026E3#24 = true ∧ 0x0026E3#24 ≠ 0#24 ∧
    validCodeword defaultB 0xFFFFFF#24 = true ∧ 0x0026E3#24 ≠ 0xFFFFFF#24 :=
  ⟨goodB_default.distance, by decide, by decide, by decide, by decide⟩

theorem witness_CorrectsThreeErrors :
    GoodB defaultB ∧ popcount 0x101040#24 = 3 ∧ popcount 0#24 = 0 := ⟨goodB_default, by decide, by decide⟩

/-- V2: one mask per class, at the class's largest number of checksum errors. -/
theorem witness_ErrorClassReachesStage :
    GoodB defaultB ∧
    [0x000821#24, 0x800088#24, 0x003000#24, 0x444000#24, 0x101040#24].map
      (fun m => (popcount (m.extractLsb' 12 12 : DataWord), popcount (m.extractLsb' 0 12 : DataWord))) =
      [(0, 3), (1, 2), (2, 0), (3, 0), (2, 1)] := ⟨goodB_default, by decide⟩

theorem witness_FourErrorsUncorrectable : GoodB defaultB ∧ popcount 0x003003#24 = 4 := ⟨goodB_default, by decide⟩

theorem witness_FiveErrorsNeverRight : GoodB defaultB ∧ 5 ≤ popcount 0x02000F#24 := ⟨goodB_default, by decide⟩

/-- Two blocks, and two families of slices, that differ but agree in bit 7 of every byte. -/
theorem witness_LanesAreIndependent :
    7 < 8 ∧ hello ≠ letters ∧ (∀ j : Fin 12, hello[j].getLsbD 7 = letters[j].getLsbD 7) ∧
    helloSlices ≠ helloSlices.set 5 #v[0, 0, 0] ∧
    ∀ (k : Fin 8) (t : Fin 3), helloSlices[k][t].getLsbD 7 = (helloSlices.set 5 #v[0, 0, 0])[k][t].getLsbD 7 := by decide

theorem witness_PlaneOrderUnobservable : [7, 6, 5, 4, 3, 2, 1, 0].Perm (List.range 8) := by decide

theorem witness_DecblkRecoversOneLostSlice : GoodB State.reset.config.b := goodB_default

theorem witness_UnpadInvertsPad : ([] : List Byte).length ≤ 11 ∧ (letters.toList.take 11).length ≤ 11 := by decide

theorem witness_ConstantsNeverChange : ∃ t, step (commanded ⟨0, 0, 0⟩ 28 0xABCBF32) = .next t := ⟨_, rfl⟩

/-- A core about to decode a word is legal, and its step goes on. -/
theorem witness_StepKeepsLegalState :
    (commanded ⟨7, 3, 2⟩ 28 0xABCBF32).Inv ∧ ∃ t, step (commanded ⟨7, 3, 2⟩ 28 0xABCBF32) = .next t := by
  refine ⟨⟨⟨by decide, by decide, by decide⟩, ?_, ?_, by intro r h; cases h⟩, _, rfl⟩
  · unfold InStream.Legal; decide
  · unfold InStream.Legal; decide

theorem witness_CountersAddUp :
    (commanded ⟨7, 3, 2⟩ 28 0xABCBF32).stat.corrected + (commanded ⟨7, 3, 2⟩ 28 0xABCBF32).stat.uncorrectable ≤
      (commanded ⟨7, 3, 2⟩ 28 0xABCBF32).stat.processed ∧
    (commanded ⟨7, 3, 2⟩ 28 0xABCBF32).stat.processed + 8 < 2 ^ (commanded ⟨7, 3, 2⟩ 28 0xABCBF32).config.cntW ∧
    ∃ t, step (commanded ⟨7, 3, 2⟩ 28 0xABCBF32) = .next t := ⟨by decide, by decide, _, rfl⟩

theorem witness_RequestsWaitForTheRun :
    (running (.decode freshDecode)).run ≠ none ∧ State.reset.run = none ∧ State.reset.requests = [] := by decide

theorem witness_StreamPrimitives :
    OutStream.empty.answers = [] ∧ (⟨[], [.ok, .fail 2]⟩ : OutStream).answers = .ok :: [.fail 2] ∧
      (⟨[], [.fail 2]⟩ : OutStream).answers = .fail 2 :: [] := by decide

/-- A run, its step, a phase in which no slice output may change, and one in which no slice input may: slice 7 is absent. -/
theorem witness_StreamsOnlyMoveForward :
    (running (.decode freshDecode)).run ≠ none ∧ (∃ t, step (running (.decode freshDecode)) = .next t) ∧
    (∀ sl e, (running (.decode freshDecode)).run ≠ some (.encode ⟨.write 0 sl, e⟩)) ∧
    (∀ e, (running (.decode freshDecode)).run ≠ some (.encode ⟨.read, e⟩)) ∧
    (∀ r, (running (.decode freshDecode)).run = some (.decode r) → r.phase ≠ .block) ∧
    ∀ r, (running (.decode { freshDecode with phase := .read 7 })).run = some (.decode r) → r.phase = .read 7 →
      r.present.getLsbD 7 = false := by
  refine ⟨by decide, ⟨_, rfl⟩, by simp [running], by simp [running], ?_, ?_⟩
  · intro r h; cases h; decide
  · intro r h; cases h; decide

/-- A source and a slice missing; a slice missing; nothing missing. -/
theorem witness_EncodePreconditions :
    (asked (.encodeRun none open8)).run = none ∧
    (asked (.encodeRun none open8)).requests = [.encodeRun none open8] ∧
    (asked (.encodeRun (some [0x41]) (open8.set 3 none))).requests = [.encodeRun (some [0x41]) (open8.set 3 none)] ∧
    (∃ k : Fin 8, (open8.set 3 none)[k] = none) ∧
    (asked (.encodeRun (some [0x41]) open8)).requests = [.encodeRun (some [0x41]) open8] ∧
    ∀ k : Fin 8, open8[k] ≠ none := by decide

/-- Six slices present, and seven. -/
theorem witness_DecodePreconditions :
    (asked (.decodeRun (seven [1, 2, 3]))).run = none ∧
    (asked (.decodeRun (seven [1, 2, 3]))).requests = [.decodeRun (seven [1, 2, 3])] ∧
    presentCount ((seven [1, 2, 3]).set 0 none) = 6 ∧ presentCount (seven [1, 2, 3]) = 7 ∧
    (seven [1, 2, 3])[(0 : Fin 8)] = some [1, 2, 3] := by decide

/-- A core about to write slice 3, whose host lets 2 bytes land. -/
def failing : State :=
  (running (.encode ⟨.write 3 helloSlices, false⟩)).setSlOut 3 ⟨[], [.fail 2]⟩

theorem witness_FailingWriteEndsRun :
    failing.run = some (.encode ⟨.write 3 helloSlices, false⟩) ∧ failing.streams.slOut[(3 : Fin 8)].answers = .fail 2 :: [] := by
  decide

/-- A core about to write slice 7 of its first block. -/
def lastWrite : State :=
  let s := running (.encode ⟨.write 7 helloSlices, true⟩)
  { s with streams := { s.streams with slOut := Vector.ofFn fun j => ⟨if j < 7 then helloSlices[j].toList else [], []⟩ } }

/-- About to read, about to write slices 0 and 7, about to return, and after 2 bytes of slice 0 landed. -/
theorem witness_SlicesStayLevel :
    (SlicesLevel (running (.encode ⟨.read, false⟩)) [] helloSlices ∧
      ∃ t, step (running (.encode ⟨.read, false⟩)) = .next t) ∧
    SlicesLevel (running (.encode ⟨.write 0 helloSlices, false⟩)) [] helloSlices ∧
    SlicesLevel lastWrite [] helloSlices ∧
    SlicesLevel (running (.encode ⟨.done .success, true⟩)) [] helloSlices ∧
    SlicesLevel ((running (.encode ⟨.done .sliceWriteFailure, false⟩)).setSlOut 0 ⟨[0x44, 0x68], []⟩) [] helloSlices := by
  refine ⟨⟨?_, _, rfl⟩, ?_, ?_, ?_, 0, 2, ?_⟩
  · simp only [SlicesLevel, running]; decide
  · simp only [SlicesLevel, running]; decide
  · simp only [SlicesLevel, lastWrite, running]; decide
  · simp only [SlicesLevel, running]; decide
  · decide

/-- Slice 0 is present in this run, slice 7 is not. -/
theorem witness_DecodeReadsOneSlice :
    (running (.decode freshDecode)).run = some (.decode freshDecode) ∧ freshDecode.phase = .read 0 ∧
    freshDecode.present.getLsbD 0 = true ∧
    (running (.decode { freshDecode with phase := .read 7 })).run = some (.decode { freshDecode with phase := .read 7 }) ∧
    ({ freshDecode with phase := .read 7 } : DecodeRun).present.getLsbD 7 = false := by decide

/-- No block held; a block held with pad byte 12, 1, 0 and 13. -/
theorem witness_TerminalIterationDecodesNothing :
    (running (.decode (lastDecode none))).run = some (.decode (lastDecode none)) ∧
    (lastDecode none).phase = .block ∧ (lastDecode none).terminal = true ∧ (lastDecode none).prev = none ∧
    (lastDecode none).padAnomaly = false ∧
    [12#8, 1#8, 0#8, 13#8].map (fun p => (lastDecode (some (hello.set 11 p))).prev) =
      [12#8, 1#8, 0#8, 13#8].map fun p => some (hello.set 11 p) := by decide

/-- A run that has met nothing uncorrectable, and one about to end that has. -/
theorem witness_LossyMeansUncorrectable :
    (LossyTracks (running (.decode freshDecode)) ∧ (running (.decode freshDecode)).stat.uncorrectable + 8 < 2 ^ 32 ∧
      ∃ t, step (running (.decode freshDecode)) = .next t) ∧
    LossyTracks { running (.decode { freshDecode with phase := .done, lossy := true, terminal := true }) with
      stat := ⟨8, 0, 1⟩ } := by
  refine ⟨⟨?_, by decide, _, rfl⟩, ?_⟩ <;> intro r h <;> cases h <;> decide

theorem witness_DecodeRunWithoutABlock :
    (asked (.decodeRun (seven [1, 2]))).run = none ∧
    (asked (.decodeRun (seven [1, 2]))).requests = [.decodeRun (seven [1, 2])] ∧ 7 ≤ presentCount (seven [1, 2]) ∧
    ∃ (k : Fin 8) (bytes : List Byte), (seven [1, 2])[k] = some bytes ∧ bytes.length < 3 :=
  ⟨rfl, rfl, by decide, 0, [1, 2], by decide, by decide⟩

/-- A decode run before its first read is legal. -/
theorem witness_EveryRunEnds : (running (.decode freshDecode)).Inv ∧ (running (.decode freshDecode)).run ≠ none := by
  refine ⟨⟨⟨by decide, by decide, by decide⟩, ?_, ?_, ?_⟩, by decide⟩
  · unfold InStream.Legal; decide
  · unfold InStream.Legal; decide
  · intro r h
    cases h
    exact ⟨by decide, by decide, by decide, by decide, by decide⟩

theorem witness_EncodeRunResult :
    (asked (.encodeRun (some [0x41]) open8)).run = none ∧
    (asked (.encodeRun (some [0x41]) open8)).requests = [.encodeRun (some [0x41]) open8] ∧ AllOpen open8 := by
  refine ⟨rfl, rfl, fun k => ⟨[], ?_, by simp⟩⟩
  simp [open8]

/-- An iteration that has read the slices of "Hello, World", slice 7 absent. -/
def helloDecode : DecodeRun :=
  { freshDecode with phase := .block, got := Vector.ofFn fun k => if k.val < 7 then helloSlices[k].toList else [] }

/-- The iteration: its triples are the slices whose bytes it holds. -/
theorem witness_DecodeRunBlocks_iteration :
    (running (.decode helloDecode)).run = some (.decode helloDecode) ∧ helloDecode.phase = .block ∧
    helloDecode.terminal = false ∧
    ∀ k : Fin 8, helloDecode.present.getLsbD k.val = true → helloSlices[k].toList = helloDecode.got[k] := by decide

/-- The run: slices of 5 bytes, one block, one short read. -/
theorem witness_DecodeRunBlocks :
    (asked (.decodeRun (seven [1, 2, 3, 4, 5]))).run = none ∧
    (asked (.decodeRun (seven [1, 2, 3, 4, 5]))).requests = [.decodeRun (seven [1, 2, 3, 4, 5])] ∧
    7 ≤ presentCount (seven [1, 2, 3, 4, 5]) ∧
    (∀ (k : Fin 8) (bytes : List Byte), (seven [1, 2, 3, 4, 5])[k] = some bytes → 3 * 1 ≤ bytes.length) ∧
    ∃ (k : Fin 8) (bytes : List Byte), (seven [1, 2, 3, 4, 5])[k] = some bytes ∧ bytes.length < 3 * 1 + 3 := by
  refine ⟨rfl, rfl, by decide, ?_, 0, [1, 2, 3, 4, 5], by decide, by decide⟩
  have h : ∀ k : Fin 8, (seven [1, 2, 3, 4, 5])[k] = some [1, 2, 3, 4, 5] ∨ (seven [1, 2, 3, 4, 5])[k] = none := by decide
  intro k bytes hk
  rcases h k with h | h <;> rw [h] at hk <;> cases hk
  decide

theorem witness_StreamRoundTrip :
    (asked (.encodeRun (some [0x41]) open8)).run = none ∧
    (asked (.encodeRun (some [0x41]) open8)).requests = .encodeRun (some [0x41]) open8 :: [] ∧ AllOpen open8 :=
  witness_EncodeRunResult

/-- For any constants and any slices a core has been asked for exactly that decode run: the inner hypotheses of the two
round trips. -/
theorem witness_StreamRoundTrip_decode :
    ∀ (c : Config) (sl : Vector (Option (List Byte)) 8), ∃ u : State,
      u.config = c ∧ u.run = none ∧ u.requests = .decodeRun sl :: [] :=
  fun c sl => ⟨{ State.powerOn c with requests := [.decodeRun sl] }, rfl, rfl, rfl⟩

theorem witness_StreamRoundTripOneSliceLost :
    GoodB (asked (.encodeRun (some [0x41]) open8)).config.b ∧
    (asked (.encodeRun (some [0x41]) open8)).run = none ∧
    (asked (.encodeRun (some [0x41]) open8)).requests = .encodeRun (some [0x41]) open8 :: [] ∧ AllOpen open8 :=
  ⟨goodB_default, witness_EncodeRunResult⟩

end Sys2Proof.Tests
end

