-- ==== Sys2Proof/Proofs/Encoding.lean ====
section
/-! The command frames (spec 30_encoding.md): which bit vectors are frames (R49, R51, R56), and how the reserved opcodes are
spelled and answered (R57). -/

open Sys2Proof.Machine Sys2Proof.Claims

namespace Sys2Proof

/-! ### Which bit vectors are frames -/

/-- Every frame has room for its opcode field (R50). -/
theorem four_le_frameLength (op : BitVec 4) : 4 ≤ frameLength op := by
  unfold frameLength
  split <;> decide

/-- The opcode map of R51 read as an `↔`: the opcodes that have frames of each length. -/
theorem eq_frameLength_iff (n : Nat) (op : BitVec 4) :
    n = frameLength op ↔
      (n = 28 ∧ (op.toNat = 1 ∨ op.toNat = 2)) ∨ (n = 100 ∧ (op.toNat = 3 ∨ op.toNat = 6)) ∨
        (n = 204 ∧ op.toNat = 4) ∨ (n = 104 ∧ op.toNat = 5) ∨ (n = 4 ∧ (op.toNat = 0 ∨ 7 ≤ op.toNat)) := by
  unfold frameLength
  split <;> grind

theorem decodeFrame_of_len_eq {f : Frame} (h : f.len = frameLength f.opcode) :
    decodeFrame f = .ok (decodeFields f) := by
  have hlen : ¬f.len < 4 := by rw [h]; exact Nat.not_lt.mpr (four_le_frameLength _)
  rw [decodeFrame, if_neg hlen, if_neg (not_not.mpr h)]

theorem decodeFrame_isOk_iff (f : Frame) : (∃ i, decodeFrame f = .ok i) ↔ f.len = frameLength f.opcode := by
  constructor
  · rintro ⟨i, hi⟩
    by_contra hne
    rw [decodeFrame, if_pos hne] at hi
    split at hi <;> cases hi
  · exact fun h => ⟨_, decodeFrame_of_len_eq h⟩

/-- Settles O3: a frame decodes exactly when its length is `frameLength` of its opcode, and the lengths are those of R51. -/
theorem frameLengthFixedByOpcode : Obligations.FrameLengthFixedByOpcode :=
  fun f => (decodeFrame_isOk_iff f).trans (eq_frameLength_iff f.len f.opcode)

/-! ### Reserved opcodes -/

/-- A command of format N is spelled by its 4 opcode bits alone (R50). -/
theorem spelledBy_of_bare {i : Instr} {op : BitVec 4} (henc : encode i = ⟨4, op⟩) (hfields : ∀ f, FieldsInPlace f i)
    (hdec : decodeFrame ⟨4, op⟩ = .ok i) : SpelledBy i op 4 := by
  refine ⟨?_, ?_, hfields _, ?_⟩ <;> rw [henc]
  · exact BitVec.extractLsb'_eq_self
  · exact hdec

/-- The commands of the eight reserved opcodes (R57). -/
def Instr.isReserved : Instr → Bool
  | .reserved0 | .reserved9 | .reservedA | .reservedB | .reservedC | .reservedD | .reservedE | .reservedF => true
  | _ => false

/-- Every reserved opcode has the one meaning of R57: an `ILLEGAL` answer and nothing else. -/
theorem exec_of_isReserved {i : Instr} (h : i.isReserved = true) (s : State) :
    exec i s = .next (answered s (.rn 0x4#4)) := by
  cases i with
  | reserved0 | reserved9 | reservedA | reservedB | reservedC | reservedD | reservedE | reservedF => rfl
  | _ => cases h

/-- Settles O16: each of the eight is a bare opcode, and all share the meaning of `exec_of_isReserved`. -/
theorem reservedOpcodesAnswerIllegal : Obligations.ReservedOpcodesAnswerIllegal := by
  refine ⟨?_, fun s => ?_⟩
  · refine ⟨?_, ?_, ?_, ?_, ?_, ?_, ?_, ?_⟩ <;> exact spelledBy_of_bare rfl (fun _ => trivial) rfl
  · refine ⟨?_, ?_, ?_, ?_, ?_, ?_, ?_, ?_⟩ <;> exact exec_of_isReserved rfl s

end Sys2Proof
end

section
/-! The word operations (spec 40_codec.md): the closed form of the checksum (R72), what `ENC` answers (R74), and the stages of a
decode (R77), which `DEC` answers and counts (R80). -/

namespace Sys2Proof

open Sys2Proof.Machine Sys2Proof.Claims Sys2Proof.Laws

/-! ### The checksum -/

/-- Above position 0 a parity bit is 0. -/
theorem parityBit_getLsbD_succ {n : Nat} (m : Nat) (v : BitVec n) (p : Nat) : (parityBit m v).getLsbD (p + 1) = false := by
  cases h : parity v <;> simp [parityBit, h]

/-- One turn of the loop of R72 brings a parity in at position 0 and moves every bit up by one. -/
theorem getLsbD_shiftLeft_or_parityBit (y v : DataWord) (p : Nat) :
    ((y <<< 1) ||| parityBit 12 v).getLsbD p =
      (decide (p < 12) && if p = 0 then parity v else y.getLsbD (p - 1)) := by
  cases p with
  | zero =>
    rw [BitVec.getLsbD_or, parityBit_getLsbD_zero (by decide)]
    simp
  | succ p => simp [parityBit_getLsbD_succ]

/-- The loop of R72 over any rows, the last one first: position `p` holds the parity with the row `p` places before the last. -/
theorem getLsbD_foldr_parityBit (x : DataWord) (rows : List DataWord) (p : Nat) :
    (rows.foldr (fun row (y : DataWord) => (y <<< 1) ||| parityBit 12 (x &&& row)) 0#12).getLsbD p =
      (decide (p < 12) && rows[p]?.any fun row => parity (x &&& row)) := by
  induction rows generalizing p with
  | nil => simp
  | cons r rs ih =>
    rw [List.foldr_cons, getLsbD_shiftLeft_or_parityBit]
    cases p with
    | zero => simp
    | succ p =>
      simp only [ih, Nat.add_one_ne_zero, if_false, Nat.add_sub_cancel, List.getElem?_cons_succ]
      by_cases hp : p + 1 < 12
      · simp [hp, Nat.lt_of_succ_lt hp]
      · simp [hp]

/-- The closed form of `chk` (R72). -/
theorem getLsbD_chk (b : GeneratorMatrix) (x : DataWord) (i : Fin 12) :
    (chk b x).getLsbD (11 - i.val) = parity (x &&& b[i]) := by
  have hlt : 11 - i.val < 12 := by omega
  have hrow : b.toList.reverse[11 - i.val]? = some b[i] := by
    have hi : 12 - 1 - (11 - i.val) = i.val := by omega
    simp [hlt, hi]
  rw [chk, List.foldl_eq_foldr_reverse, getLsbD_foldr_parityBit, hrow]
  simp [hlt]

/-- Settles O20: it is the closed form of `chk`. -/
theorem chkRowParity : Obligations.ChkRowParity := getLsbD_chk

/-! ### Frames of format W -/

/-- A command is spelled by its opcode, in a frame of the length that opcode fixes, when its operand fields stand in place and
the decoder takes them from there. -/
theorem spelledBy_of_fields {i : Instr} {op : BitVec 4} (hshape : EncodeShape.Statement i) (hop : (encode i).opcode = op)
    (hfields : FieldsInPlace (encode i) i) (hdec : decodeFields (encode i) = i) : SpelledBy i op (frameLength op) :=
  ⟨hop ▸ hshape, hop, hfields, (decodeFrame_of_len_eq hshape).trans (congrArg _ hdec)⟩

/-- A command of format W has its one operand field at `frame[27:4]` (R50). -/
theorem spelledBy_of_wordFormat {i : Instr} {w : BitVec 24} {op : BitVec 4} (henc : encode i = ⟨28, w ++ op⟩)
    (hlen : frameLength op = 28) (hfields : ∀ f : Frame, f.bits.extractLsb' 4 24 = w → FieldsInPlace f i)
    (hdec : ∀ f : Frame, f.opcode = op → f.bits.extractLsb' 4 24 = w → decodeFields f = i) : SpelledBy i op 28 := by
  have hop : (encode i).opcode = op := by rw [henc]; exact EncodeShape.opcode_append w op
  have hw : (encode i).bits.extractLsb' 4 24 = w := by rw [henc]; exact BitVec.extractLsb'_append_eq_left
  have hshape : EncodeShape.Statement i := by rw [EncodeShape.Statement, hop, hlen, henc]
  exact hlen ▸ spelledBy_of_fields hshape hop (hfields _ hw) (hdec _ hop hw)

theorem spelledBy_enc (w : BitVec 24) : SpelledBy (.enc w) 0x1#4 28 :=
  spelledBy_of_wordFormat rfl rfl (fun _ h => h) fun f hop hw => by simp [decodeFields, hop, hw]

theorem spelledBy_dec (w : BitVec 24) : SpelledBy (.dec w) 0x2#4 28 :=
  spelledBy_of_wordFormat rfl rfl (fun _ h => h) fun f hop hw => by simp [decodeFields, hop, hw]

/-! ### `ENC` -/

/-- The data bits of an encoding are the data word (R71, R74). -/
@[simp] theorem encodeWord_dataBits (b : GeneratorMatrix) (x : DataWord) : (encodeWord b x).extractLsb' 12 12 = x :=
  BitVec.extractLsb'_append_eq_left

/-- The low 12 bits of an encoding are the checksum (R71, R74). -/
theorem getLsbD_encodeWord_of_lt (b : GeneratorMatrix) (x : DataWord) {p : Nat} (hp : p < 12) :
    (encodeWord b x).getLsbD p = (chk b x).getLsbD p := by
  rw [encodeWord, BitVec.getLsbD_append, if_pos hp]

/-- `ENC` adds its response and nothing else (R74). -/
theorem exec_enc (w : BitVec 24) (s : State) :
    exec (.enc w) s = .next (answered s (.rw 0#4 (encodeWord s.config.b (encOperand w)))) := rfl

/-- Settles O9: the codeword is `encodeWord` of the operand, and its checksum bits are those of `getLsbD_chk`. -/
theorem encAnswersCodeword : Obligations.EncAnswersCodeword := fun s w =>
  ⟨spelledBy_enc w, encodeWord s.config.b (encOperand w), exec_enc w s, encodeWord_dataBits _ _, fun i =>
    (getLsbD_encodeWord_of_lt _ _ (by omega)).trans (getLsbD_chk _ _ i)⟩

/-! ### The row search of stages 4 and 6 -/

/-- The search answers the first row within distance 2, in ascending order (R82). -/
theorem firstNearRow_eq_some_iff (b : GeneratorMatrix) (v : DataWord) (i : Fin 12) :
    firstNearRow b v = some i ↔ FirstNear b v i := by
  rw [firstNearRow, ← Fin.find?_eq_find?_finRange, Fin.find?_eq_some_iff]
  simp [FirstNear]

/-- The search fails exactly when no row is within distance 2. -/
theorem firstNearRow_eq_none_iff (b : GeneratorMatrix) (v : DataWord) : firstNearRow b v = none ↔ NoneNear b v := by
  rw [firstNearRow, ← Fin.find?_eq_find?_finRange, Fin.find?_eq_none_iff]
  simp [NoneNear]

/-! ### The stages of a decode -/

section Stages

variable {b : GeneratorMatrix} {c : Codeword}

/-- Stage 3: the received data word stands, and counts as corrected unless the syndrome is 0. -/
theorem decodeWord_stage3 (hwt : popcount (syndrome b c) ≤ 3) :
    decodeWord b c = (.data (c.extractLsb' 12 12), ⟨1, if popcount (syndrome b c) = 0 then 0 else 1, 0⟩) := by
  rw [decodeWord, if_pos hwt]
  by_cases h0 : popcount (syndrome b c) = 0
  · simp [h0]
  · simp [h0, Nat.pos_of_ne_zero h0]

/-- Stage 4: the data bit of the first row near the syndrome is flipped. -/
theorem decodeWord_stage4 {i : Fin 12} (hwt : 3 < popcount (syndrome b c)) (hrow : FirstNear b (syndrome b c) i) :
    decodeWord b c = (.data (c.extractLsb' 12 12 ^^^ rowBit i), ⟨1, 1, 0⟩) := by
  simp [decodeWord, Nat.not_le.mpr hwt, (firstNearRow_eq_some_iff ..).mpr hrow]

/-- Stage 5: the checksum of the syndrome is the error in the data bits. -/
theorem decodeWord_stage5 (hwt : 3 < popcount (syndrome b c)) (hnone : NoneNear b (syndrome b c))
    (hinv : popcount (chk b (syndrome b c)) ≤ 3) :
    decodeWord b c = (.data (c.extractLsb' 12 12 ^^^ chk b (syndrome b c)), ⟨1, 1, 0⟩) := by
  simp [decodeWord, Nat.not_le.mpr hwt, (firstNearRow_eq_none_iff ..).mpr hnone, hinv]

/-- Stage 6: the error in the data bits is the checksum of the syndrome with the first row near it taken off. -/
theorem decodeWord_stage6 {i : Fin 12} (hwt : 3 < popcount (syndrome b c)) (hnone : NoneNear b (syndrome b c))
    (hinv : 3 < popcount (chk b (syndrome b c))) (hrow : FirstNear b (chk b (syndrome b c)) i) :
    decodeWord b c = (.data (c.extractLsb' 12 12 ^^^ chk b (syndrome b c) ^^^ b[i]), ⟨1, 1, 0⟩) := by
  simp [decodeWord, Nat.not_le.mpr hwt, (firstNearRow_eq_none_iff ..).mpr hnone, Nat.not_le.mpr hinv,
    (firstNearRow_eq_some_iff ..).mpr hrow]

/-- Stage 7: no stage has found an error pattern. -/
theorem decodeWord_stage7 (hwt : 3 < popcount (syndrome b c)) (hnone : NoneNear b (syndrome b c))
    (hinv : 3 < popcount (chk b (syndrome b c))) (hnone' : NoneNear b (chk b (syndrome b c))) :
    decodeWord b c = (.uncorrectable, ⟨1, 0, 1⟩) := by
  simp [decodeWord, Nat.not_le.mpr hwt, (firstNearRow_eq_none_iff ..).mpr hnone, Nat.not_le.mpr hinv,
    (firstNearRow_eq_none_iff ..).mpr hnone']

end Stages

/-! ### `DEC` -/

/-- `DEC` adds the delta of the decode to the counters and answers its result (R80). -/
theorem exec_dec {s : State} {w : BitVec 24} {res : DecodeResult} {d : Delta} (h : decodeWord s.config.b w = (res, d)) :
    exec (.dec w) s =
      .next (counted s d.processed d.corrected d.uncorrectable (.rw (decStatus res) (decField res))) := by
  simp only [exec, execDec, h]
  rfl

/-- Settles O10: each clause is `exec_dec` at one stage of `decodeWord`. -/
theorem decFollowsStages : Obligations.DecFollowsStages := by
  refine fun s w => ⟨spelledBy_dec w, ?stage3, ?stage4, ?stage5, ?stage6, ?stage7⟩
  case stage3 => exact fun hwt => exec_dec (decodeWord_stage3 hwt)
  case stage4 => exact fun i hwt hrow => exec_dec (decodeWord_stage4 hwt hrow)
  case stage5 => exact fun hwt hnone hinv => exec_dec (decodeWord_stage5 hwt hnone hinv)
  case stage6 => exact fun i hwt hnone hinv hrow => exec_dec (decodeWord_stage6 hwt hnone hinv hrow)
  case stage7 => exact fun hwt hnone hinv hnone' => exec_dec (decodeWord_stage7 hwt hnone hinv hnone')

end Sys2Proof
end

section
/-! The block operations (spec 41_striper.md): byte and block fields of a frame (R50), the scatter and deposit loops over any
list of planes, and what `ENCBLK` (R94) and `DECBLK` (R98) answer and count. -/

namespace Sys2Proof

open Sys2Proof.Machine Sys2Proof.Claims Sys2Proof.Laws

/-! ### Frames of formats B and S -/

/-- Bytes laid above `m` bits are read back at offset `m` (R50). -/
theorem byteField_packBytes_append {m : Nat} (n : Nat) (g : Nat → Byte) (v : BitVec m) {j : Nat} (hj : j < n) :
    byteField (packBytes n g ++ v) m j = g j := by
  rw [byteField, BitVec.extractLsb'_append_eq_of_le (Nat.le_add_right ..), Nat.add_sub_cancel_left]
  apply BitVec.eq_of_getLsbD_eq
  intro p hp
  have hlt : 8 * j + p < 8 * n := by omega
  have hdiv : (8 * j + p) / 8 = j := by omega
  have hmod : (8 * j + p) % 8 = p := by omega
  rw [BitVec.getLsbD_extractLsb', getLsbD_packBytes, hdiv, hmod]
  simp [hp, hlt]

theorem byteField_packBlock_append {m : Nat} (blk : Block) (v : BitVec m) (j : Fin 12) :
    byteField (packBlock blk ++ v) m j.val = blk[j] :=
  (byteField_packBytes_append 12 _ v j.isLt).trans (byteAt_of_lt blk j.val j.isLt)

theorem blockField_packBlock_append {m : Nat} (blk : Block) (v : BitVec m) : blockField (packBlock blk ++ v) m = blk := by
  refine Vector.ext fun j hj => ?_
  rw [blockField, Vector.getElem_ofFn]
  exact byteField_packBlock_append blk v ⟨j, hj⟩

theorem byteField_packSlices_append {m : Nat} (sl : Slices) (v : BitVec m) (k : Fin 8) (t : Fin 3) :
    byteField (packSlices sl ++ v) m (3 * k.val + t.val) = sl[k][t] := by
  have hdiv : (3 * k.val + t.val) / 3 = k.val := by omega
  have hmod : (3 * k.val + t.val) % 3 = t.val := by omega
  rw [packSlices, byteField_packBytes_append 24 _ v (by omega), hdiv, hmod]
  exact sliceByte_of_lt sl k.val t.val k.isLt t.isLt

theorem slicesField_packSlices_append {m : Nat} (sl : Slices) (v : BitVec m) :
    slicesField (packSlices sl ++ v) m = sl := by
  refine Vector.ext fun k hk => Vector.ext fun t ht => ?_
  rw [slicesField, Vector.getElem_ofFn, Vector.getElem_ofFn]
  exact byteField_packSlices_append sl v ⟨k, hk⟩ ⟨t, ht⟩

/-- The field between the opcode and the last field of a frame. -/
theorem extractLsb'_append_append {n m : Nat} (u : BitVec n) (v : BitVec m) (op : BitVec 4) :
    (u ++ (v ++ op)).extractLsb' 4 m = v := by
  rw [BitVec.extractLsb'_append_eq_of_add_le (by omega), BitVec.extractLsb'_append_eq_left]

theorem spelledBy_encblk (blk : Block) : SpelledBy (.encblk blk) 0x3#4 100 := by
  have hop : (encode (.encblk blk)).opcode = 0x3#4 := EncodeShape.opcode_append (packBlock blk) 0x3#4
  have hblk : blockField (encode (.encblk blk)).bits 4 = blk := blockField_packBlock_append blk 0x3#4
  exact spelledBy_of_fields (EncodeShape.encblk blk) hop (byteField_packBlock_append blk 0x3#4)
    (by simp [decodeFields, hop, hblk])

theorem spelledBy_decblk (present : BitVec 8) (sl : Slices) : SpelledBy (.decblk present sl) 0x4#4 204 := by
  have hop : (encode (.decblk present sl)).opcode = 0x4#4 :=
    EncodeShape.opcode_append_append (packSlices sl) present 0x4#4
  have hpresent : (encode (.decblk present sl)).bits.extractLsb' 4 8 = present :=
    extractLsb'_append_append (packSlices sl) present 0x4#4
  have hsl : slicesField (encode (.decblk present sl)).bits 12 = sl :=
    slicesField_packSlices_append sl (present ++ 0x4#4)
  exact spelledBy_of_fields (EncodeShape.decblk present sl) hop
    ⟨hpresent, byteField_packSlices_append sl (present ++ 0x4#4)⟩ (by simp [decodeFields, hop, hpresent, hsl])

/-! ### `ENCBLK` -/

/-- The data bits of an encoding stand above its checksum (R71). -/
theorem getLsbD_encodeWord_add (b : GeneratorMatrix) (x : DataWord) (p : Nat) :
    (encodeWord b x).getLsbD (12 + p) = x.getLsbD p := by
  rw [encodeWord, BitVec.getLsbD_append, if_neg (by omega), Nat.add_sub_cancel_left]

/-- After scattering the planes `ps`, bit `p` of a byte has been set where plane `p` is one of them and its codeword has a 1. -/
theorem getLsbD_foldl_scatter (cw : Nat → Codeword) {ps : List Nat} (hps : ∀ i ∈ ps, i < 8) (sl : Slices)
    (k : Fin 8) (t : Fin 3) (p : Nat) :
    (ps.foldl (fun sl i => scatter sl (cw i) i) sl)[k][t].getLsbD p =
      (sl[k][t].getLsbD p || (decide (p ∈ ps) && (cw p).getLsbD (3 * k.val + t.val))) := by
  induction ps generalizing sl with
  | nil => simp
  | cons i is ih =>
    obtain ⟨hi, his⟩ := List.forall_mem_cons.mp hps
    rw [List.foldl_cons, ih his, getLsbD_scatter _ _ _ _ _ _ hi]
    by_cases hp : p = i
    · subst hp
      cases (cw p).getLsbD (3 * k.val + t.val) <;> simp
    · simp [hp]

/-- Plane `i` owns bit position `i` of all 24 bytes (R94). -/
theorem getLsbD_encodeBlock (b : GeneratorMatrix) (blk : Block) (k : Fin 8) (t : Fin 3) {i : Nat} (hi : i < 8) :
    (encodeBlock b blk)[k][t].getLsbD i = (encodeWord b (plane blk i)).getLsbD (3 * k.val + t.val) := by
  rw [encodeBlock, getLsbD_foldl_scatter _ (fun _ => List.mem_range.mp)]
  simp [zeroSlices, hi]

/-- `ENCBLK` adds its response and nothing else (R94). -/
theorem exec_encblk (blk : Block) (s : State) :
    exec (.encblk blk) s = .next (answered s (.rs 0#4 (encodeBlock s.config.b blk))) := rfl

/-- Settles O11: the codeword of plane `i` is `encodeWord` of the plane, and `encodeBlock` scatters it over bit `i`. -/
theorem encblkScattersCodewords : Obligations.EncblkScattersCodewords := by
  refine fun s blk => ⟨spelledBy_encblk blk, encodeBlock s.config.b blk, fun i => encodeWord s.config.b (plane blk i),
    exec_encblk blk s, fun i hi => ⟨fun j => ?dataBit, fun r => ?checksumBit, fun k t => ?scattered⟩⟩
  case dataBit => rw [getLsbD_encodeWord_add, getLsbD_plane, decide_eq_true j.isLt, Bool.true_and, byteAt_of_lt _ _ j.isLt]; rfl
  case checksumBit => rw [getLsbD_encodeWord_of_lt _ _ (by omega), getLsbD_chk, encodeWord_dataBits]
  case scattered => exact getLsbD_encodeBlock _ _ k t hi

/-! ### Gathering -/

/-- An absent slice is none of the slices `DECBLK` gathers from (R98). -/
theorem presentSlices_getElem?_getD (present : BitVec 8) (sl : Slices) {k : Nat} (hk : k < 8) :
    (presentSlices present sl)[k]?.getD none = if present.getLsbD k then some sl[k] else none := by
  simp [presentSlices, hk]

/-- Gathering from the present slices gives the received word of R96. -/
theorem gather_presentSlices (present : BitVec 8) (sl : Slices) (i : Nat) :
    gather (presentSlices present sl) i = received present sl i := by
  apply BitVec.eq_of_getLsbD_eq
  intro p hp
  have hk : p / 3 < 8 := by omega
  have ht : p % 3 < 3 := by omega
  simp only [gather, received, getLsbD_ofBits, presentSlices_getElem?_getD present sl hk]
  cases present.getLsbD (p / 3) <;> simp [sliceByte_of_lt, byteAt_of_lt, hk, ht]

/-! ### One plane of `DECBLK` -/

/-- What a decoded plane puts into the block: its data word, and nothing when it is Uncorrectable (R98). -/
def DecodeResult.deposited : DecodeResult → DataWord
  | .data d => d
  | .uncorrectable => 0#12

@[simp] theorem deposit_zero (out : Block) (i : Nat) : deposit out 0#12 i = out := by
  refine Vector.ext fun j hj => ?_
  simp [deposit]

/-- Both outcomes of a plane read as one: deposit, flag, count (R98). -/
theorem decodePlane_eq (c : Config) (s : Vector (Option SliceTriple) 8) (acc : DecblkAcc) (i : Nat) :
    decodePlane c s acc i =
      ⟨deposit acc.out (decodeWord c.b (gather s i)).1.deposited i,
        acc.anyUnc || decide ((decodeWord c.b (gather s i)).1 = .uncorrectable),
        acc.stat.add c (decodeWord c.b (gather s i)).2⟩ := by
  unfold decodePlane
  split <;> rename_i h <;> simp [h, DecodeResult.deposited]

/-- Every decode counts one processed codeword (R77). -/
theorem decodeWord_processed (b : GeneratorMatrix) (w : Codeword) : (decodeWord b w).2.processed = 1 := by
  unfold decodeWord
  dsimp only
  split
  · rfl
  split
  · rfl
  split
  · rfl
  split <;> rfl

/-! ### The loop of `DECBLK` -/

/-- The sum of the deltas of some planes. -/
def totalDelta (delta : Nat → Delta) (ps : List Nat) : Delta :=
  ⟨(ps.map fun i => (delta i).processed).sum, (ps.map fun i => (delta i).corrected).sum,
    (ps.map fun i => (delta i).uncorrectable).sum⟩

theorem totalDelta_singleton (delta : Nat → Delta) (i : Nat) : totalDelta delta [i] = delta i := by
  simp [totalDelta]

/-- Counting one delta and then a sum of deltas is counting them all at once, wrapping included (R17). -/
theorem add_add_totalDelta (c : Config) (st : Stat) (delta : Nat → Delta) (i : Nat) (is : List Nat) :
    (st.add c (delta i)).add c (totalDelta delta is) = st.add c (totalDelta delta (i :: is)) := by
  simp [Stat.add, totalDelta, Nat.add_assoc]

section Loop

variable (c : Config) (s : Vector (Option SliceTriple) 8)

/-- After the planes `ps`, bit `p` of a byte has been set where plane `p` is one of them and its data has a 1. -/
theorem getLsbD_foldl_decodePlane {ps : List Nat} (hps : ∀ i ∈ ps, i < 8) (acc : DecblkAcc) (j : Fin 12) (p : Nat) :
    (ps.foldl (decodePlane c s) acc).out[j].getLsbD p =
      (acc.out[j].getLsbD p ||
        (decide (p ∈ ps) && (decodeWord c.b (gather s p)).1.deposited.getLsbD j.val)) := by
  induction ps generalizing acc with
  | nil => simp
  | cons i is ih =>
    obtain ⟨hi, his⟩ := List.forall_mem_cons.mp hps
    rw [List.foldl_cons, ih his, decodePlane_eq, getLsbD_deposit _ _ _ _ _ hi]
    by_cases hp : p = i
    · subst hp
      cases (decodeWord c.b (gather s p)).1.deposited.getLsbD j.val <;> simp
    · simp [hp]

/-- After the planes `ps`, the block is flagged if it was before or one of them is Uncorrectable. -/
theorem anyUnc_foldl_decodePlane (ps : List Nat) (acc : DecblkAcc) :
    (ps.foldl (decodePlane c s) acc).anyUnc =
      (acc.anyUnc || ps.any fun i => decide ((decodeWord c.b (gather s i)).1 = .uncorrectable)) := by
  induction ps generalizing acc with
  | nil => simp
  | cons i is ih => rw [List.foldl_cons, ih, decodePlane_eq, List.any_cons, Bool.or_assoc]

/-- The planes `ps` count the sum of their deltas. With no plane at all the counters would not even be reduced, so there has to
be one. -/
theorem stat_foldl_decodePlane {ps : List Nat} (hps : ps ≠ []) (acc : DecblkAcc) :
    (ps.foldl (decodePlane c s) acc).stat =
      acc.stat.add c (totalDelta (fun i => (decodeWord c.b (gather s i)).2) ps) := by
  induction ps generalizing acc with
  | nil => exact absurd rfl hps
  | cons i is ih =>
    rw [List.foldl_cons, decodePlane_eq]
    by_cases his : is = []
    · rw [his, totalDelta_singleton]
      rfl
    · rw [ih his, ← add_add_totalDelta]

/-- Plane `i` owns bit position `i` of all twelve bytes (R98). -/
theorem getLsbD_decodeBlock (st : Stat) (j : Fin 12) {i : Nat} (hi : i < 8) :
    (decodeBlock c st s).out[j].getLsbD i = (decodeWord c.b (gather s i)).1.deposited.getLsbD j.val := by
  rw [decodeBlock, getLsbD_foldl_decodePlane c s (fun _ => List.mem_range.mp)]
  simp [zeroBlock, hi]

theorem decodeBlock_anyUnc (st : Stat) :
    (decodeBlock c st s).anyUnc =
      (List.range 8).any fun i => decide ((decodeWord c.b (gather s i)).1 = .uncorrectable) := by
  rw [decodeBlock, anyUnc_foldl_decodePlane, Bool.false_or]

/-- `DECBLK` counts eight codewords and the sums of what its planes corrected and gave up (R98, R99). -/
theorem decodeBlock_stat (st : Stat) :
    (decodeBlock c st s).stat =
      st.add c ⟨8, ((List.range 8).map fun i => (decodeWord c.b (gather s i)).2.corrected).sum,
        ((List.range 8).map fun i => (decodeWord c.b (gather s i)).2.uncorrectable).sum⟩ := by
  rw [decodeBlock, stat_foldl_decodePlane c s (by decide)]
  simp [totalDelta, decodeWord_processed]

end Loop

/-! ### `DECBLK` -/

/-- `DECBLK` adds its response, writes the counters and leaves the rest (R98). -/
theorem exec_decblk (present : BitVec 8) (sl : Slices) (s : State) :
    exec (.decblk present sl) s =
      .next ((s.setStat (decodeBlock s.config s.stat (presentSlices present sl)).stat).respond
        (.rb (decblkStatus (decodeBlock s.config s.stat (presentSlices present sl)).anyUnc)
          (decodeBlock s.config s.stat (presentSlices present sl)).out)) := rfl

/-- Settles O12: counters, flag and block are those of the loop over the eight planes, which gathers the received words. -/
theorem decblkGathersAndDecodes : Obligations.DecblkGathersAndDecodes := by
  refine fun s present sl => ⟨spelledBy_decblk present sl,
    (decodeBlock s.config s.stat (presentSlices present sl)).out, ?response, fun i hi j => ?plane⟩
  case response =>
    rw [exec_decblk, decodeBlock_stat, decodeBlock_anyUnc]
    simp only [gather_presentSlices]
    rfl
  case plane =>
    rw [getLsbD_decodeBlock _ _ _ _ hi, gather_presentSlices]
    refine ⟨fun d hd => ?_, fun hunc => ?_⟩
    · rw [hd, DecodeResult.deposited]
    · rw [hunc, DecodeResult.deposited, BitVec.getLsbD_zero]

end Sys2Proof
end

section
/-! Padding (spec 42_padding.md): the bytes of a padded chunk (R107) and of an unpadded block (R109), and what `PAD` (R108) and
`UNPAD` (R110) answer. -/

namespace Sys2Proof

open Sys2Proof.Machine Sys2Proof.Claims Sys2Proof.Laws

/-! ### Frames of formats P and B -/

theorem spelledBy_pad (len : BitVec 4) (chunk : Block) : SpelledBy (.pad len chunk) 0x5#4 104 := by
  have hop : (encode (.pad len chunk)).opcode = 0x5#4 := EncodeShape.opcode_append_append (packBlock chunk) len 0x5#4
  have hlen : (encode (.pad len chunk)).bits.extractLsb' 4 4 = len :=
    extractLsb'_append_append (packBlock chunk) len 0x5#4
  have hchunk : blockField (encode (.pad len chunk)).bits 8 = chunk := blockField_packBlock_append chunk (len ++ 0x5#4)
  exact spelledBy_of_fields (EncodeShape.pad len chunk) hop
    ⟨hlen, byteField_packBlock_append chunk (len ++ 0x5#4)⟩ (by simp [decodeFields, hop, hlen, hchunk])

theorem spelledBy_unpad (blk : Block) : SpelledBy (.unpad blk) 0x6#4 100 := by
  have hop : (encode (.unpad blk)).opcode = 0x6#4 := EncodeShape.opcode_append (packBlock blk) 0x6#4
  have hblk : blockField (encode (.unpad blk)).bits 4 = blk := blockField_packBlock_append blk 0x6#4
  exact spelledBy_of_fields (EncodeShape.unpad blk) hop (byteField_packBlock_append blk 0x6#4)
    (by simp [decodeFields, hop, hblk])

/-! ### Byte lists as blocks -/

@[simp] theorem getElem_blockOfList (l : List Byte) {j : Nat} (hj : j < 12) : (blockOfList l)[j] = l.getD j 0#8 :=
  Vector.getElem_ofFn hj

/-- The first `n` bytes of a block, the others 0 (R54, R55). -/
theorem getElem_blockOfList_take (blk : Block) (n : Nat) (j : Fin 12) :
    (blockOfList (blk.toList.take n))[j] = if j.val < n then blk[j] else 0#8 := by
  simp only [Fin.getElem_fin, getElem_blockOfList]
  by_cases hj : j.val < n <;> simp [hj]

/-- All the bytes of a block are the block again. -/
@[simp] theorem blockOfList_toList (blk : Block) : blockOfList blk.toList = blk := by
  refine Vector.ext fun j hj => ?_
  simp [hj]

/-! ### `PAD` -/

/-- The real bytes of a chunk stand first, and `12 - len(ch)` fills the rest (R107). -/
theorem getElem_pad (ch : List Byte) (j : Fin 12) :
    (pad ch)[j] = if j.val < ch.length then ch.getD j.val 0#8 else BitVec.ofNat 8 (12 - ch.length) := by
  rw [pad, Fin.getElem_fin, getElem_blockOfList]
  by_cases hj : j.val < ch.length
  · rw [if_pos hj, List.getD_append _ _ _ _ hj]
  · have hfill : j.val - ch.length < 12 - ch.length := by omega
    rw [if_neg hj, List.getD_append_right _ _ _ _ (Nat.le_of_not_lt hj), List.getD_replicate _ hfill]

@[simp] theorem length_padChunk (len : BitVec 4) (chunk : Block) : (padChunk len chunk).length = min len.toNat 12 := by
  simp [padChunk]

/-- The chunk of `PAD` padded, in terms of the operands (R54, R107). -/
theorem getElem_pad_padChunk {len : BitVec 4} (hlen : len.toNat ≤ 11) (chunk : Block) (j : Fin 12) :
    (pad (padChunk len chunk))[j] = if j.val < len.toNat then chunk[j] else BitVec.ofNat 8 (12 - len.toNat) := by
  have hlength : (padChunk len chunk).length = len.toNat := by rw [length_padChunk]; omega
  rw [getElem_pad, hlength]
  by_cases hj : j.val < len.toNat
  · rw [if_pos hj, if_pos hj, ← getElem_blockOfList _ j.isLt, padChunk]
    exact (getElem_blockOfList_take chunk len.toNat j).trans (if_pos hj)
  · rw [if_neg hj, if_neg hj]

/-- `PAD` inside its operand domain adds its response and nothing else (R108). -/
theorem exec_pad_of_le {len : BitVec 4} (hlen : len.toNat ≤ 11) (chunk : Block) (s : State) :
    exec (.pad len chunk) s = .next (answered s (.rb 0#4 (pad (padChunk len chunk)))) :=
  if_pos (decide_eq_true hlen)

/-- `PAD` outside its operand domain is answered `ILLEGAL` (R58, R108). -/
theorem exec_pad_of_lt {len : BitVec 4} (hlen : 11 < len.toNat) (chunk : Block) (s : State) :
    exec (.pad len chunk) s = .next (answered s (.rn 0x4#4)) :=
  if_neg fun h => Nat.not_le.mpr hlen (of_decide_eq_true h)

/-- Settles O13: the two answers are those of `execPad`, and the padded bytes are those of `pad`. -/
theorem padPadsOrIsIllegal : Obligations.PadPadsOrIsIllegal := fun s len chunk =>
  ⟨spelledBy_pad len chunk,
    fun hlen => ⟨pad (padChunk len chunk), exec_pad_of_le hlen chunk s, getElem_pad_padChunk hlen chunk⟩,
    fun hlen => exec_pad_of_lt hlen chunk s⟩

/-! ### `UNPAD` -/

/-- A pad byte in 1..12 strips that many bytes (R109). -/
theorem unpad_of_mem {blk : Block} (hpos : 1 ≤ blk[11].toNat) (hle : blk[11].toNat ≤ 12) :
    unpad blk = (blk.toList.take (12 - blk[11].toNat), false) := by
  have hp : ¬(blk[11].toNat < 1 ∨ blk[11].toNat > 12) := by omega
  rw [unpad, byteAt_of_lt blk 11 (by decide)]
  exact if_neg hp

/-- Any other pad byte keeps the whole block and is flagged (R109). -/
theorem unpad_of_not_mem {blk : Block} (h : blk[11].toNat = 0 ∨ 13 ≤ blk[11].toNat) : unpad blk = (blk.toList, true) := by
  have hp : blk[11].toNat < 1 ∨ blk[11].toNat > 12 := by omega
  rw [unpad, byteAt_of_lt blk 11 (by decide)]
  exact if_pos hp

/-- `UNPAD` adds its response and nothing else (R110). -/
theorem exec_unpad {blk : Block} {bytes : List Byte} {anomaly : Bool} (h : unpad blk = (bytes, anomaly)) (s : State) :
    exec (.unpad blk) s =
      .next (answered s (.rp (unpadStatus anomaly) (BitVec.ofNat 4 bytes.length) (blockOfList bytes))) := by
  simp only [exec, execUnpad, h]
  rfl

/-- Settles O14: each clause is `exec_unpad` in one of the two cases of `unpad`. -/
theorem unpadStripsOrFlags : Obligations.UnpadStripsOrFlags := by
  refine fun s blk => ⟨spelledBy_unpad blk, fun hpos hle => ?stripped, fun hanomaly => ?flagged⟩
  case stripped =>
    have hlength : (blk.toList.take (12 - blk[11].toNat)).length = 12 - blk[11].toNat := by simp
    have hexec := exec_unpad (unpad_of_mem hpos hle) s
    rw [hlength] at hexec
    exact ⟨_, hexec, getElem_blockOfList_take blk _⟩
  case flagged =>
    rw [exec_unpad (unpad_of_not_mem hanomaly), Vector.length_toList, blockOfList_toList]
    rfl

end Sys2Proof
end

section
/-! The statistics operations (spec 43_statistics.md): reading the counters (R117) and clearing them (R118). -/

namespace Sys2Proof

open Sys2Proof.Machine Sys2Proof.Claims

theorem spelledBy_rdstat : SpelledBy .rdstat 0x7#4 4 := spelledBy_of_bare rfl (fun _ => trivial) rfl

theorem spelledBy_clrstat : SpelledBy .clrstat 0x8#4 4 := spelledBy_of_bare rfl (fun _ => trivial) rfl

/-- `RDSTAT` adds its response and nothing else: reading does not clear (R117). -/
theorem exec_rdstat (s : State) :
    exec .rdstat s =
      .next (answered s (.rc 0#4 s.stat.processed s.stat.corrected s.stat.uncorrectable)) := rfl

/-- `CLRSTAT` clears the counters and adds its response, and leaves the rest (R118). -/
theorem exec_clrstat (s : State) : exec .clrstat s = .next (answered (s.setStat ⟨0, 0, 0⟩) (.rn 0#4)) := rfl

/-- Settles O15: both are commands of format N, with the effects of `exec_rdstat` and `exec_clrstat`. -/
theorem statisticsOperations : Obligations.StatisticsOperations :=
  ⟨spelledBy_rdstat, spelledBy_clrstat, fun s => ⟨exec_rdstat s, exec_clrstat s⟩⟩

end Sys2Proof
end

section
/-! The start of a decode run and the reads of its iterations (spec 44_stream_sequencer.md): the precondition and the first
state of a run (R128), the eight reads of an iteration in closed form (R129), and a run whose first iteration is the terminal
one (R130, R134). -/

namespace Sys2Proof.Machine

open Sys2Proof.Claims

/-! ### Reaching a state -/

theorem reaches_one {s t : State} (h : step s = .next t) : Reaches 1 s t := by
  have hcore : core.step s = .next t := h
  simp only [Reaches, runSteps, Host.Core.run, hcore]
  rfl

/-- A run of `n` steps that all go on is continued by the next `m`. -/
theorem run_add_of_next (M : Host.Core) {n m : Nat} {s t : M.State} (h : M.run n s = .next t) :
    M.run (n + m) s = M.run m t := by
  induction n generalizing s with
  | zero =>
    cases h
    rw [Nat.zero_add]
  | succ n ih =>
    rw [Nat.succ_add]
    simp only [Host.Core.run] at h ⊢
    split at h
    · exact ih h
    · cases h
    · cases h

theorem Reaches.trans {n m : Nat} {s t u : State} (h : Reaches n s t) (h' : Reaches m t u) : Reaches (n + m) s u :=
  (run_add_of_next core h).trans h'

/-! ### The present mask -/

theorem getLsbD_presentMask (sl : Vector (Option (List Byte)) 8) (k : Fin 8) :
    (presentMask sl).getLsbD k.val = sl[k].isSome := by
  rw [presentMask, getLsbD_ofBits]
  simp

/-- The weight of the present mask is the number of slices the host has. -/
theorem popcount_presentMask (sl : Vector (Option (List Byte)) 8) : popcount (presentMask sl) = presentCount sl := by
  rw [popcount, presentCount, ← List.map_coe_finRange_eq_range, List.countP_map]
  exact List.countP_congr fun k _ => by rw [Function.comp_apply, getLsbD_presentMask]

/-! ### The start of a decode run -/

/-- The sequencer state of a decode run before its first read (R23, R128). -/
def DecodeRun.initial (sl : Vector (Option (List Byte)) 8) : DecodeRun :=
  { phase := .read 0, present := presentMask sl, got := nothingRead, prev := none, lossy := false, padAnomaly := false,
    terminal := false }

/-- A decode run over these slices in progress: counters at 0, streams at their start, nothing read (R128). -/
def State.withDecodeRun (s : State) (sl : Vector (Option (List Byte)) 8) : State :=
  (s.clearStat.openDecode sl).setRun (some (.decode (DecodeRun.initial sl)))

theorem step_decodeRun {s : State} {sl : Vector (Option (List Byte)) 8} {rest : List Request} (hrun : s.run = none)
    (hreq : s.requests = .decodeRun sl :: rest) : step s = .next (startDecode sl (s.setRequests rest)) :=
  step_request hrun hreq

/-- Too few slices: the run ends before any stream is touched (R128). -/
theorem startDecode_of_lt {sl : Vector (Option (List Byte)) 8} (h : presentCount sl < 7) (s : State) :
    startDecode sl s = s.clearStat.finish .insufficientInputs false := by
  rw [← popcount_presentMask] at h
  exact if_pos h

/-- Enough slices: the run starts (R128). -/
theorem startDecode_of_le {sl : Vector (Option (List Byte)) 8} (h : 7 ≤ presentCount sl) (s : State) :
    startDecode sl s = s.withDecodeRun sl := by
  rw [← popcount_presentMask] at h
  exact if_neg (Nat.not_lt.mpr h)

/-- The stream of a present slice is that of its handle, at cursor 0 (R32, R128). -/
theorem State.withDecodeRun_slIn {sl : Vector (Option (List Byte)) 8} {k : Fin 8} {bytes : List Byte}
    (hk : sl[k] = some bytes) (s : State) : (s.withDecodeRun sl).streams.slIn[k] = ⟨bytes, 0⟩ := by
  rw [Fin.getElem_fin] at hk
  simp [withDecodeRun, hk]

/-- Settles O48: the two cases are those of `startDecode`, told apart by the weight of the present mask. -/
theorem decodePreconditions : Obligations.DecodePreconditions := by
  intro s sl rest hrun hreq
  refine ⟨_, step_decodeRun hrun hreq, ?_⟩
  rcases Nat.lt_or_ge (presentCount sl) 7 with hfew | henough
  · rw [startDecode_of_lt hfew]
    exact ⟨rfl, rfl, rfl, fun _ => ⟨rfl, rfl, rfl⟩, fun h => absurd hfew (Nat.not_lt.mpr h)⟩
  · rw [startDecode_of_le henough]
    refine ⟨rfl, rfl, rfl, fun h => absurd h (Nat.not_lt.mpr henough), fun _ =>
      ⟨rfl, rfl, fun k bytes hk => State.withDecodeRun_slIn hk _, ?_⟩⟩
    exact ⟨DecodeRun.initial sl, rfl, rfl, rfl, rfl, rfl, rfl, getLsbD_presentMask sl⟩

/-! ### The reads of one iteration -/

/-- The phase in which `n` slices of the iteration have been passed. -/
def DecodePhase.afterSlices (n : Nat) : DecodePhase := if h : n < 8 then .read ⟨n, h⟩ else .block

/-- Slice `j` is present and among the `n` slices passed, so it has been read. -/
def DecodeRun.hasRead (r : DecodeRun) (n : Nat) (j : Fin 8) : Bool := decide (j.val < n) && r.present.getLsbD j.val

/-- The run `r` after passing `n` slices of an iteration that begins in `s`: what each read returned, and whether one was short
(R129, R130). -/
def DecodeRun.afterSlices (r : DecodeRun) (n : Nat) (s : State) : DecodeRun :=
  { r with
    phase := .afterSlices n
    got := Vector.ofFn fun j => if r.hasRead n j then (s.streams.slIn[j].read 3).1 else r.got[j]
    terminal := r.terminal || decide (∃ j : Fin 8, r.hasRead n j = true ∧ (s.streams.slIn[j].read 3).1.length < 3) }

/-- The state after passing `n` slices of an iteration of `r` that begins in `s`. -/
def State.afterSlices (s : State) (r : DecodeRun) (n : Nat) : State :=
  { s with
    run := some (.decode (r.afterSlices n s))
    streams :=
      { s.streams with
        slIn := Vector.ofFn fun j => if r.hasRead n j then (s.streams.slIn[j].read 3).2 else s.streams.slIn[j] } }

theorem DecodeRun.hasRead_zero (r : DecodeRun) (j : Fin 8) : r.hasRead 0 j = false := rfl

/-- Slice `k` is not read before its turn. -/
theorem DecodeRun.hasRead_self (r : DecodeRun) (k : Fin 8) : r.hasRead k.val k = false := by simp [hasRead]

/-- Passing slice `k` adds it to the slices read if it is present. -/
theorem DecodeRun.hasRead_succ_iff (r : DecodeRun) (k j : Fin 8) :
    r.hasRead (k.val + 1) j = true ↔ r.hasRead k.val j = true ∨ j = k ∧ r.present.getLsbD k.val = true := by
  have hlt : j.val < k.val + 1 ↔ j.val < k.val ∨ j = k := by omega
  simp only [hasRead, Bool.and_eq_true, decide_eq_true_eq, hlt, or_and_right]
  refine or_congr_right (and_congr_right fun hj => ?_)
  rw [hj]

theorem DecodeRun.hasRead_succ_of_absent {r : DecodeRun} {k : Fin 8} (hk : r.present.getLsbD k.val = false) (j : Fin 8) :
    r.hasRead (k.val + 1) j = r.hasRead k.val j := by
  rw [Bool.eq_iff_iff, hasRead_succ_iff, hk]
  exact or_iff_left fun h => Bool.false_ne_true h.2

theorem DecodeRun.hasRead_succ_of_present {r : DecodeRun} {k : Fin 8} (hk : r.present.getLsbD k.val = true) (j : Fin 8) :
    r.hasRead (k.val + 1) j = true ↔ r.hasRead k.val j = true ∨ j = k := by
  rw [hasRead_succ_iff, and_iff_left hk]

/-- What is held for each slice, `f` of those read, changes at slice `k` only. -/
theorem set_ofFn_hasRead {α : Type} {r : DecodeRun} {k : Fin 8} (hk : r.present.getLsbD k.val = true) (f g : Fin 8 → α) :
    (Vector.ofFn fun j => if r.hasRead k.val j then f j else g j).set k.val (f k) =
      Vector.ofFn fun j => if r.hasRead (k.val + 1) j then f j else g j := by
  refine Vector.ext fun i hi => ?_
  simp only [Vector.getElem_set, Vector.getElem_ofFn, DecodeRun.hasRead_succ_of_present hk]
  by_cases hik : k.val = i
  · subst hik
    simp
  · have hne : (⟨i, hi⟩ : Fin 8) ≠ k := fun h => hik (congrArg Fin.val h).symm
    simp [hik, hne]

/-- A present slice is read (R129). -/
theorem decodeRead_of_present {r : DecodeRun} {k : Fin 8} (hk : r.present.getLsbD k.val = true) (s : State) :
    decodeRead r k s =
      (s.setSlIn k (s.streams.slIn[k].read 3).2).setRun (some (.decode
        { r with
          phase := .afterSlices (k.val + 1)
          got := r.got.set k (s.streams.slIn[k].read 3).1
          terminal := r.terminal || decide ((s.streams.slIn[k].read 3).1.length < 3) })) := if_pos hk

/-- An absent slice is passed over (R129). -/
theorem decodeRead_of_absent {r : DecodeRun} {k : Fin 8} (hk : r.present.getLsbD k.val = false) (s : State) :
    decodeRead r k s = s.setRun (some (.decode { r with phase := .afterSlices (k.val + 1) })) :=
  if_neg (hk ▸ Bool.false_ne_true)

/-- No slice passed: the iteration is where it began. -/
theorem State.afterSlices_zero {s : State} {r : DecodeRun} (hrun : s.run = some (.decode r)) (hphase : r.phase = .read 0) :
    s.afterSlices r 0 = s := by
  have hr : r.afterSlices 0 s = r := by
    cases r
    cases hphase
    simp [DecodeRun.afterSlices, DecodeRun.hasRead_zero, DecodePhase.afterSlices]
  simp only [State.afterSlices, hr, DecodeRun.hasRead_zero, ← hrun]
  simp

/-- Slice `k` still has its stream as the iteration found it. -/
theorem State.afterSlices_slIn_self (s : State) (r : DecodeRun) (k : Fin 8) :
    (s.afterSlices r k.val).streams.slIn[k] = s.streams.slIn[k] := by
  simp [afterSlices, DecodeRun.hasRead_self]

/-- One slice read leads from `k` slices passed to `k + 1`, whether slice `k` is present or not. -/
theorem decodeRead_afterSlices (s : State) (r : DecodeRun) (k : Fin 8) :
    decodeRead (r.afterSlices k.val s) k (s.afterSlices r k.val) = s.afterSlices r (k.val + 1) := by
  cases hk : r.present.getLsbD k.val with
  | false =>
    rw [decodeRead_of_absent (r := r.afterSlices k.val s) hk]
    simp only [State.afterSlices, DecodeRun.afterSlices, DecodeRun.hasRead_succ_of_absent hk]
    rfl
  | true =>
    have hterm : (∃ j, r.hasRead (k.val + 1) j = true ∧ (s.streams.slIn[j].read 3).1.length < 3) ↔
        (∃ j, r.hasRead k.val j = true ∧ (s.streams.slIn[j].read 3).1.length < 3) ∨
          (s.streams.slIn[k].read 3).1.length < 3 := by
      simp only [DecodeRun.hasRead_succ_of_present hk, or_and_right, exists_or, exists_eq_left]
    rw [decodeRead_of_present (r := r.afterSlices k.val s) hk, State.afterSlices_slIn_self]
    simp only [State.afterSlices, DecodeRun.afterSlices, ← set_ofFn_hasRead hk, decide_eq_decide.mpr hterm]
    simp [State.setRun, State.setSlIn, Bool.or_assoc]

/-- A step of the run passes the next slice (R41, R129). -/
theorem step_afterSlices (s : State) (r : DecodeRun) (k : Fin 8) :
    step (s.afterSlices r k.val) = .next (s.afterSlices r (k.val + 1)) := by
  have hphase : (r.afterSlices k.val s).phase = .read k := dif_pos k.isLt
  rw [step_of_run (r := .decode (r.afterSlices k.val s)) rfl, stepRun, stepDecode, hphase, ← decodeRead_afterSlices]

theorem reaches_afterSlices {s : State} {r : DecodeRun} (hrun : s.run = some (.decode r)) (hphase : r.phase = .read 0)
    {n : Nat} (hn : n ≤ 8) : Reaches n s (s.afterSlices r n) := by
  induction n with
  | zero => exact congrArg _ (State.afterSlices_zero hrun hphase).symm
  | succ n ih => exact (ih (Nat.le_of_succ_le hn)).trans (reaches_one (step_afterSlices s r ⟨n, hn⟩))

/-! ### A run without a block -/

/-- A terminal iteration that holds no block in arrears writes nothing, and the run returns its result (R130, R133). -/
theorem reaches_finish_of_prev_eq_none {s : State} {r : DecodeRun} (hrun : s.run = some (.decode r))
    (hphase : r.phase = .block) (hterm : r.terminal = true) (hprev : r.prev = none) :
    Reaches 2 s (s.finish (decodeOutcome r.lossy) r.padAnomaly) := by
  have hlast : step s = .next (s.setRun (some (.decode { r with phase := .done }))) := by
    rw [step_of_run hrun, stepRun, stepDecode, hphase]
    simp only [hterm, if_true, decodeLast, hprev]
  have hreturn : step (s.setRun (some (.decode { r with phase := .done }))) =
      .next (s.finish (decodeOutcome r.lossy) r.padAnomaly) := by
    rw [step_of_run (State.setRun_run ..)]
    rfl
  exact (reaches_one hlast).trans (reaches_one hreturn)

/-- A present slice with fewer than 3 bytes left makes the iteration terminal (R129). -/
theorem DecodeRun.terminal_afterSlices {s : State} {r : DecodeRun} {k : Fin 8} (hk : r.present.getLsbD k.val = true)
    (hshort : (s.streams.slIn[k].read 3).1.length < 3) : (r.afterSlices 8 s).terminal = true := by
  have hread : r.hasRead 8 k = true := by rw [hasRead, hk, decide_eq_true k.isLt, Bool.and_self]
  rw [afterSlices, decide_eq_true ⟨k, hread, hshort⟩, Bool.or_true]

/-- The first iteration of a run is terminal if one of its slices has fewer than 3 bytes (R129, R134). -/
theorem terminal_firstIteration {sl : Vector (Option (List Byte)) 8} {k : Fin 8} {bytes : List Byte}
    (hk : sl[k] = some bytes) (hshort : bytes.length < 3) (s : State) :
    ((DecodeRun.initial sl).afterSlices 8 (s.withDecodeRun sl)).terminal = true := by
  have hpresent : (presentMask sl).getLsbD k.val = true := by rw [getLsbD_presentMask, hk, Option.isSome_some]
  refine DecodeRun.terminal_afterSlices hpresent ?_
  obtain ⟨-, hlength, -, -⟩ := InStream.read_spec (s.withDecodeRun sl).streams.slIn[k] 3
  rw [hlength, State.withDecodeRun_slIn hk]
  exact Nat.lt_of_le_of_lt (Nat.min_le_right ..) hshort

/-- Settles O54: the run starts, passes the eight slices of its only iteration, which holds no block, and returns. -/
theorem decodeRunWithoutABlock : Obligations.DecodeRunWithoutABlock := by
  rintro s sl rest hrun hreq henough ⟨k, bytes, hk, hshort⟩
  have hstart : step s = .next ((s.setRequests rest).withDecodeRun sl) := by
    rw [step_decodeRun hrun hreq, startDecode_of_le henough]
  have hread := reaches_afterSlices (s := (s.setRequests rest).withDecodeRun sl) rfl rfl (Nat.le_refl 8)
  have hterminal := terminal_firstIteration hk hshort (s.setRequests rest)
  have hfinish := hread.trans (reaches_finish_of_prev_eq_none rfl rfl hterminal rfl)
  exact ⟨_, _, (reaches_one hstart).trans hfinish, rfl, rfl, rfl, rfl, rfl⟩

end Sys2Proof.Machine
end

section
/-! The condition `IllegalCommand` (spec 60_exceptions.md): which commands raise it, and what happens where it is raised
(R148). -/

namespace Sys2Proof

open Sys2Proof.Machine Sys2Proof.Claims

/-! ### The commands that raise it -/

/-- The cause of R148: a reserved opcode (R57), or `PAD` outside its operand domain (R58). -/
theorem wellFormed_eq_false_iff (i : Instr) :
    i.wellFormed = false ↔ i.isReserved = true ∨ ∃ len chunk, i = .pad len chunk ∧ 11 < len.toNat := by
  cases i with
  | pad len chunk => simp [Instr.wellFormed, Instr.isReserved, padLenLegal]
  | _ => simp [Instr.wellFormed, Instr.isReserved]

/-- The effect of R148: an RN response with status 0x4 and nothing else. -/
theorem exec_of_wellFormed_eq_false {i : Instr} (h : i.wellFormed = false) (s : State) :
    exec i s = .next (answered s (.rn 0x4#4)) := by
  obtain hreserved | ⟨len, chunk, rfl, hlen⟩ := (wellFormed_eq_false_iff i).mp h
  · exact exec_of_isReserved hreserved s
  · exact exec_pad_of_lt hlen chunk s

/-! ### The commands that do not

The status functions of the model give bit 0 or bit 1 at most (R53), so bit 2, `ILLEGAL`, is not theirs. -/

theorem decStatus_getLsbD_two (res : DecodeResult) : (decStatus res).getLsbD 2 = false := by
  cases res with
  | data x => exact BitVec.getLsbD_zero
  | uncorrectable => rfl

theorem decblkStatus_getLsbD_two (anyUnc : Bool) : (decblkStatus anyUnc).getLsbD 2 = false := by
  cases anyUnc <;> rfl

theorem unpadStatus_getLsbD_two (anomaly : Bool) : (unpadStatus anomaly).getLsbD 2 = false := by
  cases anomaly <;> rfl

/-- A legal command is answered once, without the `ILLEGAL` bit, and writes no more than the counters. -/
theorem exec_of_wellFormed {i : Instr} (h : i.wellFormed = true) (s : State) :
    ∃ st r, exec i s = .next { s with stat := st, responses := s.responses ++ [r] } ∧ r.status.getLsbD 2 = false := by
  cases i with
  | enc w => exact ⟨_, _, exec_enc w s, BitVec.getLsbD_zero⟩
  | dec w => exact ⟨_, _, exec_dec rfl, decStatus_getLsbD_two _⟩
  | encblk blk => exact ⟨_, _, exec_encblk blk s, BitVec.getLsbD_zero⟩
  | decblk present sl => exact ⟨_, _, exec_decblk present sl s, decblkStatus_getLsbD_two _⟩
  | pad len chunk => exact ⟨_, _, exec_pad_of_le (of_decide_eq_true h) chunk s, BitVec.getLsbD_zero⟩
  | unpad blk => exact ⟨_, _, exec_unpad rfl s, unpadStatus_getLsbD_two _⟩
  | rdstat => exact ⟨_, _, exec_rdstat s, BitVec.getLsbD_zero⟩
  | clrstat => exact ⟨_, _, exec_clrstat s, BitVec.getLsbD_zero⟩
  | _ => cases h

/-- Settles O17: a command that is not legal is answered `ILLEGAL`, and no legal command is. -/
theorem illegalExactlyWhenNotLegal : Obligations.IllegalExactlyWhenNotLegal := by
  intro i s
  cases hlegal : i.wellFormed with
  | false => exact ⟨s.stat, .rn 0x4#4, exec_of_wellFormed_eq_false hlegal s, by decide, fun _ => ⟨rfl, rfl⟩⟩
  | true =>
    obtain ⟨st, r, hexec, hbit⟩ := exec_of_wellFormed hlegal s
    exact ⟨st, r, hexec, by rw [hbit]; decide, nofun⟩

end Sys2Proof
end

section
/-! The command frames and the commands spelled by them are the same (spec 30_encoding.md section 2): decoding undoes encoding,
and encoding undoes decoding, so that no bit of a frame is dropped (R50, R51). -/

namespace Sys2Proof

open Sys2Proof.Machine Sys2Proof.Claims Sys2Proof.Laws

/-! ### Decoding an encoding -/

theorem decodeFrame_encode_of_spelledBy {i : Instr} {op : BitVec 4} {len : Nat} (h : SpelledBy i op len) :
    decodeFrame (encode i) = .ok i := by
  obtain ⟨-, -, -, hdec⟩ := h
  exact hdec

/-- Settles O1: every command is spelled by its frame, by the lemma of its format. -/
theorem decodeOfEncode : Obligations.DecodeOfEncode := by
  intro i
  cases i with
  | enc w => exact decodeFrame_encode_of_spelledBy (spelledBy_enc w)
  | dec w => exact decodeFrame_encode_of_spelledBy (spelledBy_dec w)
  | encblk blk => exact decodeFrame_encode_of_spelledBy (spelledBy_encblk blk)
  | decblk present sl => exact decodeFrame_encode_of_spelledBy (spelledBy_decblk present sl)
  | pad len chunk => exact decodeFrame_encode_of_spelledBy (spelledBy_pad len chunk)
  | unpad blk => exact decodeFrame_encode_of_spelledBy (spelledBy_unpad blk)
  | rdstat => exact decodeFrame_encode_of_spelledBy spelledBy_rdstat
  | clrstat => exact decodeFrame_encode_of_spelledBy spelledBy_clrstat
  | reserved0 | reserved9 | reservedA | reservedB | reservedC | reservedD | reservedE | reservedF => rfl

/-! ### Encoding what was decoded -/

/-- Bytes taken from a field and laid one after the other are the field again. -/
theorem packBytes_eq_extractLsb' {len : Nat} (v : BitVec len) (off n : Nat) (g : Nat → Byte)
    (hg : ∀ j < n, g j = byteField v off j) : packBytes n g = v.extractLsb' off (8 * n) := by
  apply BitVec.eq_of_getLsbD_eq
  intro p hp
  have hmod : p % 8 < 8 := Nat.mod_lt _ (by decide)
  have hpos : off + 8 * (p / 8) + p % 8 = off + p := by omega
  rw [getLsbD_packBytes, hg _ (by omega), getLsbD_byteField, BitVec.getLsbD_extractLsb', hpos]
  simp [hp, hmod]

theorem packBlock_blockField {len : Nat} (v : BitVec len) (off : Nat) :
    packBlock (blockField v off) = v.extractLsb' off 96 :=
  packBytes_eq_extractLsb' v off 12 _ fun j hj => byteAt_ofFn _ j hj

theorem packSlices_slicesField {len : Nat} (v : BitVec len) (off : Nat) :
    packSlices (slicesField v off) = v.extractLsb' off 192 := by
  refine packBytes_eq_extractLsb' v off 24 _ fun n hn => ?_
  have hk : n / 3 < 8 := by omega
  have ht : n % 3 < 3 := Nat.mod_lt _ (by decide)
  rw [sliceByte_of_lt _ _ _ hk ht, slicesField, Vector.getElem_ofFn, Vector.getElem_ofFn]
  exact congrArg _ (Nat.div_add_mod n 3)

/-- A frame is its opcode and the bits above it. -/
theorem append_opcode {n : Nat} (v : BitVec (n + 4)) {op : BitVec 4} (hop : (⟨n + 4, v⟩ : Frame).opcode = op) :
    v.extractLsb' 4 n ++ op = v := by
  rw [← hop]
  exact BitVec.extractLsb'_append_extractLsb'

/-- A frame is its opcode, the operand field next to it and the bits above both. -/
theorem append_field_opcode {n m : Nat} (v : BitVec (n + (m + 4))) {op : BitVec 4}
    (hop : (⟨n + (m + 4), v⟩ : Frame).opcode = op) :
    v.extractLsb' (m + 4) n ++ (v.extractLsb' 4 m ++ op) = v := by
  have hlow : v.extractLsb' 4 m ++ op = v.extractLsb' 0 (m + 4) := by
    rw [← hop]
    exact BitVec.extractLsb'_append_extractLsb'_eq_extractLsb' rfl
  rw [hlow]
  exact BitVec.extractLsb'_append_extractLsb'

/-- The opcode map of R51 in reverse: a frame of the right length has one of the six lengths and an opcode of that length. -/
theorem opcode_cases {f : Frame} (hlen : f.len = frameLength f.opcode) :
    (f.len = 28 ∧ (f.opcode = 0x1#4 ∨ f.opcode = 0x2#4)) ∨ (f.len = 100 ∧ (f.opcode = 0x3#4 ∨ f.opcode = 0x6#4)) ∨
      (f.len = 204 ∧ f.opcode = 0x4#4) ∨ (f.len = 104 ∧ f.opcode = 0x5#4) ∨
      (f.len = 4 ∧ (f.opcode.toNat = 0 ∨ 7 ≤ f.opcode.toNat)) := by
  simp only [BitVec.toNat_eq]
  exact (eq_frameLength_iff _ _).mp hlen

/-- A bare opcode without operands is the frame of the command its value names. -/
theorem encode_decodeFields_bare (v : BitVec 4) (h : v.toNat = 0 ∨ 7 ≤ v.toNat) : encode (decodeFields ⟨4, v⟩) = ⟨4, v⟩ := by
  revert v
  decide

/-- A frame of the right length is the frame of the command its fields spell, format by format (R50, R51). -/
theorem encode_decodeFields {f : Frame} (hlen : f.len = frameLength f.opcode) : encode (decodeFields f) = f := by
  have hcases := opcode_cases hlen
  obtain ⟨len, v⟩ := f
  obtain ⟨rfl, hop | hop⟩ | ⟨rfl, hop | hop⟩ | ⟨rfl, hop⟩ | ⟨rfl, hop⟩ | ⟨rfl, hop⟩ := hcases
  · have hi : decodeFields ⟨28, v⟩ = .enc (v.extractLsb' 4 24) := by simp [decodeFields, hop]
    rw [hi, encode, append_opcode v hop]
  · have hi : decodeFields ⟨28, v⟩ = .dec (v.extractLsb' 4 24) := by simp [decodeFields, hop]
    rw [hi, encode, append_opcode v hop]
  · have hi : decodeFields ⟨100, v⟩ = .encblk (blockField v 4) := by simp [decodeFields, hop]
    rw [hi, encode, packBlock_blockField, append_opcode v hop]
  · have hi : decodeFields ⟨100, v⟩ = .unpad (blockField v 4) := by simp [decodeFields, hop]
    rw [hi, encode, packBlock_blockField, append_opcode v hop]
  · have hi : decodeFields ⟨204, v⟩ = .decblk (v.extractLsb' 4 8) (slicesField v 12) := by simp [decodeFields, hop]
    rw [hi, encode, packSlices_slicesField, append_field_opcode (n := 192) (m := 8) v hop]
  · have hi : decodeFields ⟨104, v⟩ = .pad (v.extractLsb' 4 4) (blockField v 8) := by simp [decodeFields, hop]
    rw [hi, encode, packBlock_blockField, append_field_opcode (n := 96) (m := 4) v hop]
  · refine encode_decodeFields_bare v ?_
    rwa [Frame.opcode, BitVec.extractLsb'_eq_self] at hop

/-- Settles O2: what decodes has the right length, and such a frame is the encoding of its fields. -/
theorem encodeOfDecode : Obligations.EncodeOfDecode := by
  intro f i hdec
  have hlen := (decodeFrame_isOk_iff f).mp ⟨i, hdec⟩
  cases (decodeFrame_of_len_eq hlen).symm.trans hdec
  exact encode_decodeFields hlen

end Sys2Proof
end

section
/-! Frames of the spec's own vectors, response frames (spec 30_encoding.md R52), and what every command does and leaves unchanged
(R49, R53, R54, R119, 60_exceptions.md R146). -/

namespace Sys2Proof

open Sys2Proof.Machine Sys2Proof.Claims Sys2Proof.Laws

/-- Settles O4: the decoder evaluates each frame of V8. -/
theorem framesOfTheSpecDecode : Obligations.FramesOfTheSpecDecode := by
  refine ⟨?_, ?_, ?_, ?_, ?_, ?_, ?_, ?_, ?_, ?_⟩ <;> decide

/-! ### Response frames -/

/-- The status is the low 4 bits of every response (R52, R53). -/
theorem extractLsb'_frame_status (c : Config) (r : Response) : (r.frame c).bits.extractLsb' 0 4 = r.status := by
  cases r with
  | rn st => exact BitVec.extractLsb'_eq_self
  | rw st w => exact BitVec.extractLsb'_append_eq_right
  | rb st blk => exact BitVec.extractLsb'_append_eq_right
  | rs st sl => exact BitVec.extractLsb'_append_eq_right
  | rp st len out => exact (BitVec.extractLsb'_append_eq_of_add_le (by decide)).trans BitVec.extractLsb'_append_eq_right
  | rc st p q u =>
    refine (BitVec.extractLsb'_append_eq_of_add_le (by omega)).trans ?_
    exact (BitVec.extractLsb'_append_eq_of_add_le (by omega)).trans BitVec.extractLsb'_append_eq_right

/-- The three counters of an `RC` response stand one above the other, over the status (R52). -/
theorem frame_rc_counters (c : Config) (st : BitVec 4) (p q u : Nat) :
    ((Response.rc st p q u).frame c).bits.extractLsb' 4 c.cntW = BitVec.ofNat c.cntW p ∧
    ((Response.rc st p q u).frame c).bits.extractLsb' (c.cntW + 4) c.cntW = BitVec.ofNat c.cntW q ∧
    ((Response.rc st p q u).frame c).bits.extractLsb' (c.cntW + (c.cntW + 4)) c.cntW = BitVec.ofNat c.cntW u := by
  refine ⟨?_, ?_, BitVec.extractLsb'_append_eq_left⟩
  · refine (BitVec.extractLsb'_append_eq_of_add_le (by omega)).trans ?_
    exact (BitVec.extractLsb'_append_eq_of_add_le (by omega)).trans BitVec.extractLsb'_append_eq_left
  · exact (BitVec.extractLsb'_append_eq_of_add_le (by omega)).trans BitVec.extractLsb'_append_eq_left

/-- Settles O5: each format puts its fields above the status by concatenation, and each field is read back at its offset. -/
theorem responseFrameLayout : Obligations.ResponseFrameLayout := by
  refine fun c => ⟨extractLsb'_frame_status c, fun _ => rfl, fun st w => ⟨rfl, BitVec.extractLsb'_append_eq_left⟩,
    fun st blk => ⟨rfl, byteField_packBlock_append blk st⟩, fun st sl => ⟨rfl, byteField_packSlices_append sl st⟩,
    fun st len out => ⟨rfl, extractLsb'_append_append (packBlock out) len st, byteField_packBlock_append out (len ++ st)⟩,
    fun st p q u => ?_⟩
  have hq : 4 + c.cntW = c.cntW + 4 := by omega
  have hu : 4 + 2 * c.cntW = c.cntW + (c.cntW + 4) := by omega
  have hlen : c.cntW + (c.cntW + (c.cntW + 4)) = 4 + 3 * c.cntW := by omega
  rw [hq, hu]
  exact ⟨hlen, frame_rc_counters c st p q u⟩

/-! ### What a command does to the counters -/

theorem exists_firstNear_or_noneNear (b : GeneratorMatrix) (v : DataWord) : (∃ i, FirstNear b v i) ∨ NoneNear b v := by
  cases h : firstNearRow b v with
  | some i => exact .inl ⟨i, (firstNearRow_eq_some_iff b v i).mp h⟩
  | none => exact .inr ((firstNearRow_eq_none_iff b v).mp h)

/-- What a decode can give: the conditions and the result of each stage of R77. -/
inductive DecodeStage (b : GeneratorMatrix) (c : Codeword) : DecodeResult × Delta → Prop
  | stage3 (hwt : popcount (syndrome b c) ≤ 3) :
      DecodeStage b c (.data (c.extractLsb' 12 12), ⟨1, if popcount (syndrome b c) = 0 then 0 else 1, 0⟩)
  | stage4 {i : Fin 12} (hwt : 3 < popcount (syndrome b c)) (hrow : FirstNear b (syndrome b c) i) :
      DecodeStage b c (.data (c.extractLsb' 12 12 ^^^ rowBit i), ⟨1, 1, 0⟩)
  | stage5 (hwt : 3 < popcount (syndrome b c)) (hnone : NoneNear b (syndrome b c))
      (hinv : popcount (chk b (syndrome b c)) ≤ 3) :
      DecodeStage b c (.data (c.extractLsb' 12 12 ^^^ chk b (syndrome b c)), ⟨1, 1, 0⟩)
  | stage6 {i : Fin 12} (hwt : 3 < popcount (syndrome b c)) (hnone : NoneNear b (syndrome b c))
      (hinv : 3 < popcount (chk b (syndrome b c))) (hrow : FirstNear b (chk b (syndrome b c)) i) :
      DecodeStage b c (.data (c.extractLsb' 12 12 ^^^ chk b (syndrome b c) ^^^ b[i]), ⟨1, 1, 0⟩)
  | stage7 (hwt : 3 < popcount (syndrome b c)) (hnone : NoneNear b (syndrome b c))
      (hinv : 3 < popcount (chk b (syndrome b c))) (hnone' : NoneNear b (chk b (syndrome b c))) :
      DecodeStage b c (.uncorrectable, ⟨1, 0, 1⟩)

/-- Every decode ends in one of the stages. -/
theorem decodeWord_stage (b : GeneratorMatrix) (c : Codeword) : DecodeStage b c (decodeWord b c) := by
  rcases Nat.lt_or_ge 3 (popcount (syndrome b c)) with hwt | hwt
  · rcases exists_firstNear_or_noneNear b (syndrome b c) with ⟨i, hrow⟩ | hnone
    · exact decodeWord_stage4 hwt hrow ▸ .stage4 hwt hrow
    rcases Nat.lt_or_ge 3 (popcount (chk b (syndrome b c))) with hinv | hinv
    · rcases exists_firstNear_or_noneNear b (chk b (syndrome b c)) with ⟨i, hrow⟩ | hnone'
      · exact decodeWord_stage6 hwt hnone hinv hrow ▸ .stage6 hwt hnone hinv hrow
      · exact decodeWord_stage7 hwt hnone hinv hnone' ▸ .stage7 hwt hnone hinv hnone'
    · exact decodeWord_stage5 hwt hnone hinv ▸ .stage5 hwt hnone hinv
  · exact decodeWord_stage3 hwt ▸ .stage3 hwt

/-- A decode counts one codeword, as corrected or as uncorrectable or as neither (R77). -/
theorem decodeWord_delta_le (b : GeneratorMatrix) (w : Codeword) :
    (decodeWord b w).2.corrected + (decodeWord b w).2.uncorrectable ≤ (decodeWord b w).2.processed := by
  have hstage := decodeWord_stage b w
  generalize decodeWord b w = result at hstage ⊢
  cases hstage with
  | stage3 =>
    dsimp only
    split <;> decide
  | _ => exact Nat.le_refl 1

/-- What one command may make of the counters (R17, R118, R119): it leaves them, clears them, or adds a delta of at most 8
codewords, each corrected, uncorrectable or neither. -/
def CountersFollow (c : Config) (st st' : Stat) : Prop :=
  st' = st ∨ st' = Stat.zero ∨
    ∃ d : Delta, d.corrected + d.uncorrectable ≤ d.processed ∧ d.processed ≤ 8 ∧ st' = st.add c d

/-- `DECBLK` counts eight codewords, each corrected, uncorrectable or neither. -/
theorem decodeBlock_stat_follows (c : Config) (st : Stat) (s : Vector (Option SliceTriple) 8) :
    CountersFollow c st (decodeBlock c st s).stat := by
  refine .inr (.inr ⟨_, ?_, Nat.le_refl 8, decodeBlock_stat c s st⟩)
  dsimp only
  rw [← List.sum_map_add]
  exact List.sum_le_card_nsmul _ 1 (List.forall_mem_map.mpr fun i _ =>
    (decodeWord_delta_le c.b (gather s i)).trans_eq (decodeWord_processed ..))

/-! ### What a command answers -/

/-- The status bits a command may set (R53). -/
def StatusAllowed (i : Instr) (status : BitVec 4) : Prop :=
  status = 0x0#4 ∨
    (status = 0x1#4 ∧ ((∃ w, i = .dec w) ∨ ∃ p sl, i = .decblk p sl)) ∨
    (status = 0x2#4 ∧ ∃ blk, i = .unpad blk) ∨
    (status = 0x4#4 ∧ i.wellFormed = false)

theorem decStatus_allowed (w : BitVec 24) (res : DecodeResult) : StatusAllowed (.dec w) (decStatus res) := by
  cases res with
  | data d => exact .inl rfl
  | uncorrectable => exact .inr (.inl ⟨rfl, .inl ⟨w, rfl⟩⟩)

theorem decblkStatus_allowed (present : BitVec 8) (sl : Slices) (anyUnc : Bool) :
    StatusAllowed (.decblk present sl) (decblkStatus anyUnc) := by
  cases anyUnc with
  | false => exact .inl rfl
  | true => exact .inr (.inl ⟨rfl, .inr ⟨present, sl, rfl⟩⟩)

theorem unpadStatus_allowed (blk : Block) (anomaly : Bool) : StatusAllowed (.unpad blk) (unpadStatus anomaly) := by
  cases anomaly with
  | false => exact .inl rfl
  | true => exact .inr (.inr (.inl ⟨rfl, blk, rfl⟩))

/-- Every command, said once: it goes on with one more response, of a status it may have, and has done to the counters what its
kind may do to them; nothing else in the state is written. -/
theorem exec_cases (i : Instr) (s : State) : ∃ st r,
    exec i s = .next { s with stat := st, responses := s.responses ++ [r] } ∧ StatusAllowed i r.status ∧
      (writesStat i = false → st = s.stat) ∧ CountersFollow s.config s.stat st := by
  cases hlegal : i.wellFormed with
  | false =>
    exact ⟨_, _, exec_of_wellFormed_eq_false hlegal s, .inr (.inr (.inr ⟨rfl, hlegal⟩)), fun _ => rfl, .inl rfl⟩
  | true =>
    cases i with
    | enc w => exact ⟨_, _, exec_enc w s, .inl rfl, fun _ => rfl, .inl rfl⟩
    | dec w =>
      have hone : (decodeWord s.config.b w).2.processed ≤ 8 := by
        rw [decodeWord_processed]
        decide
      exact ⟨_, _, exec_dec rfl, decStatus_allowed w _, nofun, .inr (.inr ⟨_, decodeWord_delta_le .., hone, rfl⟩)⟩
    | encblk blk => exact ⟨_, _, exec_encblk blk s, .inl rfl, fun _ => rfl, .inl rfl⟩
    | decblk present sl =>
      exact ⟨_, _, exec_decblk present sl s, decblkStatus_allowed present sl _, nofun, decodeBlock_stat_follows ..⟩
    | pad len chunk =>
      exact ⟨_, _, exec_pad_of_le (of_decide_eq_true hlegal) chunk s, .inl rfl, fun _ => rfl, .inl rfl⟩
    | unpad blk => exact ⟨_, _, exec_unpad rfl s, unpadStatus_allowed blk _, fun _ => rfl, .inl rfl⟩
    | rdstat => exact ⟨_, _, exec_rdstat s, .inl rfl, fun _ => rfl, .inl rfl⟩
    | clrstat => exact ⟨_, _, exec_clrstat s, .inl rfl, nofun, .inr (.inl rfl)⟩
    | reserved0 | reserved9 | reservedA | reservedB | reservedC | reservedD | reservedE | reservedF => cases hlegal

/-- Settles O8: the response and the counters are all that `exec_cases` lets a command write. -/
theorem everyCommandAnswersOnce : Obligations.EveryCommandAnswersOnce := by
  intro i s
  obtain ⟨st, r, hexec, -, hstat, -⟩ := exec_cases i s
  exact ⟨st, r, hexec, hstat⟩

/-- Settles O18: the status is one that `exec_cases` allows. -/
theorem statusHasOneBitAtMost : Obligations.StatusHasOneBitAtMost := by
  intro i s
  obtain ⟨st, r, hexec, hstatus, -, -⟩ := exec_cases i s
  exact ⟨st, r, hexec, hstatus⟩

/-! ### Ignored operand fields -/

theorem presentSlices_congr {present : BitVec 8} {sl sl' : Slices}
    (h : ∀ k : Fin 8, present.getLsbD k.val = true → sl[k] = sl'[k]) : presentSlices present sl = presentSlices present sl' := by
  refine Vector.ext fun k hk => ?_
  simp only [presentSlices, Vector.getElem_ofFn]
  by_cases hpresent : present.getLsbD k = true
  · rw [if_pos hpresent, if_pos hpresent, h ⟨k, hk⟩ hpresent]
  · rw [if_neg hpresent, if_neg hpresent]

theorem padChunk_congr {len : BitVec 4} {ch ch' : Block} (h : ∀ j : Fin 12, j.val < len.toNat → ch[j] = ch'[j]) :
    padChunk len ch = padChunk len ch' := by
  refine List.ext_getElem (by simp) fun j hj _ => ?_
  obtain ⟨hlen, hj⟩ := Nat.lt_min.mp (length_padChunk len ch ▸ hj)
  simpa [padChunk] using h ⟨j, hj⟩ hlen

/-- Settles O19: each operation goes through its operand assembly, which does not read the ignored fields (R54). -/
theorem ignoredFieldsDoNotMatter : Obligations.IgnoredFieldsDoNotMatter := by
  refine fun s => ⟨fun w w' h => ?enc, fun present sl sl' h => ?decblk, fun len ch ch' h => ?pad⟩
  case enc => rw [exec_enc, exec_enc, encOperand, encOperand, h]
  case decblk => rw [exec_decblk, exec_decblk, presentSlices_congr h]
  case pad => simp only [exec, execPad, padChunk_congr h]

/-! ### A step -/

/-- A command frame at the head of the queue is taken off it and performed (R49). -/
theorem step_command {s : State} {f : Frame} {rest : List Request} (hrun : s.run = none)
    (hreq : s.requests = .command f :: rest) : step s = serveFrame f (s.setRequests rest) := step_request hrun hreq

theorem serveFrame_of_ok {f : Frame} {i : Instr} (h : decodeFrame f = .ok i) (s : State) : serveFrame f s = exec i s := by
  rw [serveFrame, h]

theorem serveFrame_of_error {f : Frame} {e : DecodeError} (h : decodeFrame f = .error e) (s : State) :
    serveFrame f s = .refused (.notACommandFrame e) := by
  rw [serveFrame, h]

/-- Settles O6: taking the request off the queue and decoding it is all a step adds to `exec`. -/
theorem stepRunsDecodedCommand : Obligations.StepRunsDecodedCommand := by
  intro s f rest i hrun hreq hdec
  rw [step_command hrun hreq, serveFrame_of_ok hdec]
  rfl

/-- Settles O7: runs, waiting and run requests always go on, and a command frame goes on by `exec_cases`. -/
theorem stepStopsOnlyOnNonFrames : Obligations.StepStopsOnlyOnNonFrames := by
  intro s
  cases hrun : s.run with
  | some r => exact .inl ⟨_, step_of_run hrun⟩
  | none =>
    cases hreq : s.requests with
    | nil => exact .inl ⟨s, step_idle hrun hreq⟩
    | cons q rest =>
      cases q with
      | encodeRun src sl => exact .inl ⟨_, step_request hrun hreq⟩
      | decodeRun sl => exact .inl ⟨_, step_request hrun hreq⟩
      | command f =>
        cases hdec : decodeFrame f with
        | error e => exact .inr ⟨f, rest, e, rfl, rfl, hdec, by rw [step_command hrun hreq, serveFrame_of_error hdec]⟩
        | ok i =>
          obtain ⟨st, r, hexec, -, -, -⟩ := exec_cases i (s.setRequests rest)
          exact .inl ⟨_, by rw [step_command hrun hreq, serveFrame_of_ok hdec, hexec]⟩

end Sys2Proof
end

section
/-! What one step can do, said once (spec 10_state.md R14, 44_stream_sequencer.md R124 to R133): each procedure of the sequencer
in closed form, the cases of a step, and the frame of a run. -/

namespace Sys2Proof.Machine

open Sys2Proof.Claims

/-- After a write to slot `k` every other slot is as it was. -/
theorem getElem_set_fin {α : Type} {n : Nat} (v : Vector α n) (k j : Fin n) (x : α) :
    (v.set k x)[j] = if j = k then x else v[j] := by
  simp only [Fin.getElem_fin, Vector.getElem_set, Fin.ext_iff, eq_comm]

/-! ### The start of an encode run -/

/-- An encode run in progress: counters at 0, the source at cursor 0, eight empty slice outputs (R124). -/
def State.withEncodeRun (s : State) (bytes : List Byte) (sl : Vector (Option (List WriteAnswer)) 8) : State :=
  (s.clearStat.openEncode bytes sl).setRun (some (.encode ⟨.read, false⟩))

theorem all_isSome_iff {α : Type} (sl : Vector (Option α) 8) :
    sl.toList.all Option.isSome = true ↔ ∀ k : Fin 8, sl[k] ≠ none := by
  simp only [List.all_eq_true, Vector.mem_toList_iff, Vector.mem_iff_getElem, Option.isSome_iff_ne_none]
  constructor
  · exact fun h k => h _ ⟨k.val, k.isLt, rfl⟩
  · rintro h x ⟨i, hi, rfl⟩
    exact h ⟨i, hi⟩

theorem startEncode_of_no_source (sl : Vector (Option (List WriteAnswer)) 8) (s : State) :
    startEncode none sl s = s.clearStat.finish .inputOpenFailure false := rfl

theorem startEncode_of_no_slice {sl : Vector (Option (List WriteAnswer)) 8} {k : Fin 8} (hk : sl[k] = none)
    (bytes : List Byte) (s : State) : startEncode (some bytes) sl s = s.clearStat.finish .outputsUnavailable false :=
  if_neg fun h => (all_isSome_iff sl).mp h k hk

theorem startEncode_of_all {sl : Vector (Option (List WriteAnswer)) 8} (h : ∀ k : Fin 8, sl[k] ≠ none)
    (bytes : List Byte) (s : State) : startEncode (some bytes) sl s = s.withEncodeRun bytes sl :=
  if_pos ((all_isSome_iff sl).mpr h)

/-! ### One step of an encode run -/

/-- The block of the bytes one encode iteration has read: a short read is padded (R125). -/
def blockRead (ch : List Byte) : Block := if ch.length < 12 then pad ch else blockOfList ch

/-- Where an encode iteration goes after slice `k` has been written (R125). -/
def EncodePhase.afterWrite (k : Fin 8) (sl : Slices) (terminal : Bool) : EncodePhase :=
  if h : k.val + 1 < 8 then .write ⟨k.val + 1, h⟩ sl else if terminal then .done .success else .read

theorem encodeRead_eq (s : State) :
    encodeRead s = (s.setSrc (s.streams.src.read 12).2).setRun (some (.encode
      ⟨.write 0 (encodeBlock s.config.b (blockRead (s.streams.src.read 12).1)),
        decide ((s.streams.src.read 12).1.length < 12)⟩)) := by
  simp [encodeRead, blockRead]

theorem encodeWrite_of_ok {k : Fin 8} {sl : Slices} {s : State} (h : (s.streams.slOut[k].write sl[k].toList).1 = true)
    (terminal : Bool) :
    encodeWrite k sl terminal s = (s.setSlOut k (s.streams.slOut[k].write sl[k].toList).2).setRun
      (some (.encode ⟨.afterWrite k sl terminal, terminal⟩)) := by
  simp only [encodeWrite, h, if_true, EncodePhase.afterWrite]
  split
  · rfl
  · split <;> rfl

theorem encodeWrite_of_fail {k : Fin 8} {sl : Slices} {s : State} (h : (s.streams.slOut[k].write sl[k].toList).1 = false)
    (terminal : Bool) :
    encodeWrite k sl terminal s = (s.setSlOut k (s.streams.slOut[k].write sl[k].toList).2).setRun
      (some (.encode ⟨.done .sliceWriteFailure, terminal⟩)) := by
  simp only [encodeWrite, h, Bool.false_eq_true, if_false]

/-! ### One step of a decode run -/

/-- What the terminal iteration writes, and the pad anomaly it reports (R131). -/
def DecodeRun.lastWritten (r : DecodeRun) : List Byte × Bool := r.prev.elim ([], r.padAnomaly) unpad

/-- The run after its terminal iteration. -/
def DecodeRun.afterLast (r : DecodeRun) : DecodeRun := { r with phase := .done, padAnomaly := r.lastWritten.2 }

/-- What `DECBLK` makes of the slices of this iteration (R129). -/
def DecodeRun.decoded (r : DecodeRun) (s : State) : DecblkAcc :=
  decodeBlock s.config s.stat (presentSlices r.present (gotSlices r))

/-- The run after an iteration that was not terminal (R129, R132). -/
def DecodeRun.afterNext (r : DecodeRun) (acc : DecblkAcc) : DecodeRun :=
  { r with phase := .read 0, got := nothingRead, prev := some acc.out, lossy := r.lossy || acc.anyUnc }

/-- The block held in arrears, as it is written when it turns out not to be the last (R131). -/
def DecodeRun.heldBytes (r : DecodeRun) : List Byte := r.prev.elim [] fun b => b.toList

theorem State.writeOut_nil (s : State) : s.writeOut [] = s := by
  simp [State.writeOut]

theorem decodeLast_eq (r : DecodeRun) (s : State) :
    decodeLast r s = (s.writeOut r.lastWritten.1).setRun (some (.decode r.afterLast)) := by
  cases hprev : r.prev with
  | some b => simp [decodeLast, DecodeRun.afterLast, DecodeRun.lastWritten, hprev]
  | none => simp [decodeLast, DecodeRun.afterLast, DecodeRun.lastWritten, hprev, State.writeOut_nil]

theorem decodeNext_eq (r : DecodeRun) (s : State) :
    decodeNext r s = ((s.setStat (r.decoded s).stat).writeOut r.heldBytes).setRun
      (some (.decode (r.afterNext (r.decoded s)))) := by
  cases hprev : r.prev with
  | some b => simp [decodeNext, DecodeRun.afterNext, DecodeRun.decoded, DecodeRun.heldBytes, hprev]
  | none => simp [decodeNext, DecodeRun.afterNext, DecodeRun.decoded, DecodeRun.heldBytes, hprev, State.writeOut_nil]

/-! ### The steps of a run -/

section RunSteps

variable {s : State}

theorem step_encodeRead {e : Bool} (hrun : s.run = some (.encode ⟨.read, e⟩)) : step s = .next (encodeRead s) :=
  step_of_run hrun

theorem step_encodeWrite {k : Fin 8} {sl : Slices} {e : Bool} (hrun : s.run = some (.encode ⟨.write k sl, e⟩)) :
    step s = .next (encodeWrite k sl e s) := step_of_run hrun

theorem step_encodeDone {o : RunOutcome} {e : Bool} (hrun : s.run = some (.encode ⟨.done o, e⟩)) :
    step s = .next (s.finish o false) := step_of_run hrun

variable {r : DecodeRun} (hrun : s.run = some (.decode r))
include hrun

theorem step_decodeRead {k : Fin 8} (hphase : r.phase = .read k) : step s = .next (decodeRead r k s) := by
  rw [step_of_run hrun, stepRun, stepDecode, hphase]

theorem step_decodeLast (hphase : r.phase = .block) (hterm : r.terminal = true) :
    step s = .next ((s.writeOut r.lastWritten.1).setRun (some (.decode r.afterLast))) := by
  rw [step_of_run hrun, stepRun, stepDecode, hphase, ← decodeLast_eq]
  exact congrArg _ (if_pos hterm)

theorem step_decodeNext (hphase : r.phase = .block) (hterm : r.terminal = false) :
    step s = .next (((s.setStat (r.decoded s).stat).writeOut r.heldBytes).setRun
      (some (.decode (r.afterNext (r.decoded s))))) := by
  rw [step_of_run hrun, stepRun, stepDecode, hphase, ← decodeNext_eq]
  exact congrArg _ (if_neg (hterm ▸ Bool.false_ne_true))

theorem step_decodeDone (hphase : r.phase = .done) :
    step s = .next (s.finish (decodeOutcome r.lossy) r.padAnomaly) := by
  rw [step_of_run hrun, stepRun, stepDecode, hphase]

end RunSteps

/-! ### The cases of a step -/

/-- What one step from `s` can lead to. -/
inductive StepsTo (s : State) : State → Prop
  /-- The core waits (R166). -/
  | idle (hrun : s.run = none) (hreq : s.requests = []) : StepsTo s s
  /-- A command is performed (R49, R119). -/
  | command {f : Frame} {rest : List Request} {st : Stat} {r : Response} (hrun : s.run = none)
      (hreq : s.requests = .command f :: rest) (hstat : CountersFollow s.config s.stat st) :
      StepsTo s { s with requests := rest, stat := st, responses := s.responses ++ [r] }
  /-- A run is asked for whose preconditions fail (R124, R128). -/
  | noRun {rest : List Request} {o : RunOutcome} (hrun : s.run = none) :
      StepsTo s ((s.setRequests rest).clearStat.finish o false)
  /-- An encode run starts (R124). -/
  | encodeStart {bytes : List Byte} {sl : Vector (Option (List WriteAnswer)) 8} {rest : List Request}
      (hrun : s.run = none) : StepsTo s ((s.setRequests rest).withEncodeRun bytes sl)
  /-- A decode run starts (R128). -/
  | decodeStart {sl : Vector (Option (List Byte)) 8} {rest : List Request} (hrun : s.run = none)
      (henough : 7 ≤ presentCount sl) : StepsTo s ((s.setRequests rest).withDecodeRun sl)
  /-- An encode run reads the source (R125). -/
  | encodeRead {e : Bool} (hrun : s.run = some (.encode ⟨.read, e⟩)) :
      StepsTo s ((s.setSrc (s.streams.src.read 12).2).setRun (some (.encode
        ⟨.write 0 (encodeBlock s.config.b (blockRead (s.streams.src.read 12).1)),
          decide ((s.streams.src.read 12).1.length < 12)⟩)))
  /-- An encode run writes a slice (R125). -/
  | encodeWrite {k : Fin 8} {sl : Slices} {e : Bool} (hrun : s.run = some (.encode ⟨.write k sl, e⟩))
      (hok : (s.streams.slOut[k].write sl[k].toList).1 = true) :
      StepsTo s ((s.setSlOut k (s.streams.slOut[k].write sl[k].toList).2).setRun
        (some (.encode ⟨.afterWrite k sl e, e⟩)))
  /-- A slice write fails (R126). -/
  | encodeFail {k : Fin 8} {sl : Slices} {e : Bool} (hrun : s.run = some (.encode ⟨.write k sl, e⟩))
      (hfail : (s.streams.slOut[k].write sl[k].toList).1 = false) :
      StepsTo s ((s.setSlOut k (s.streams.slOut[k].write sl[k].toList).2).setRun
        (some (.encode ⟨.done .sliceWriteFailure, e⟩)))
  /-- An encode run returns its result (R127). -/
  | encodeDone {o : RunOutcome} {e : Bool} (hrun : s.run = some (.encode ⟨.done o, e⟩)) : StepsTo s (s.finish o false)
  /-- A decode run reads a present slice (R129). -/
  | decodeRead {r : DecodeRun} {k : Fin 8} (hrun : s.run = some (.decode r)) (hphase : r.phase = .read k)
      (hpresent : r.present.getLsbD k.val = true) :
      StepsTo s ((s.setSlIn k (s.streams.slIn[k].read 3).2).setRun (some (.decode
        { r with
          phase := .afterSlices (k.val + 1)
          got := r.got.set k (s.streams.slIn[k].read 3).1
          terminal := r.terminal || decide ((s.streams.slIn[k].read 3).1.length < 3) })))
  /-- A decode run passes over an absent slice (R129). -/
  | decodeSkip {r : DecodeRun} {k : Fin 8} (hrun : s.run = some (.decode r)) (hphase : r.phase = .read k)
      (habsent : r.present.getLsbD k.val = false) :
      StepsTo s (s.setRun (some (.decode { r with phase := .afterSlices (k.val + 1) })))
  /-- The terminal iteration of a decode run (R130, R131). -/
  | decodeLast {r : DecodeRun} (hrun : s.run = some (.decode r)) (hphase : r.phase = .block) (hterm : r.terminal = true) :
      StepsTo s ((s.writeOut r.lastWritten.1).setRun (some (.decode r.afterLast)))
  /-- Any other iteration (R129, R131, R132). -/
  | decodeNext {r : DecodeRun} (hrun : s.run = some (.decode r)) (hphase : r.phase = .block) (hterm : r.terminal = false) :
      StepsTo s (((s.setStat (r.decoded s).stat).writeOut r.heldBytes).setRun
        (some (.decode (r.afterNext (r.decoded s)))))
  /-- A decode run returns its result (R133). -/
  | decodeDone {r : DecodeRun} (hrun : s.run = some (.decode r)) (hphase : r.phase = .done) :
      StepsTo s (s.finish (decodeOutcome r.lossy) r.padAnomaly)

theorem StepsTo.startEncode {s : State} {rest : List Request} (hrun : s.run = none) (src : Option (List Byte))
    (sl : Vector (Option (List WriteAnswer)) 8) : StepsTo s (startEncode src sl (s.setRequests rest)) := by
  cases src with
  | none => exact .noRun hrun
  | some bytes =>
    by_cases h : ∀ k : Fin 8, sl[k] ≠ none
    · rw [startEncode_of_all h]
      exact .encodeStart hrun
    · obtain ⟨k, hk⟩ := not_forall_not.mp h
      rw [startEncode_of_no_slice hk]
      exact .noRun hrun

theorem StepsTo.startDecode {s : State} {rest : List Request} (hrun : s.run = none)
    (sl : Vector (Option (List Byte)) 8) : StepsTo s (startDecode sl (s.setRequests rest)) := by
  rcases Nat.lt_or_ge (presentCount sl) 7 with hfew | henough
  · rw [startDecode_of_lt hfew]
    exact .noRun hrun
  · rw [startDecode_of_le henough]
    exact .decodeStart hrun henough

theorem StepsTo.stepEncode {s : State} {r : EncodeRun} (hrun : s.run = some (.encode r)) : StepsTo s (stepEncode r s) := by
  obtain ⟨phase, e⟩ := r
  cases phase with
  | read =>
    rw [Machine.stepEncode, encodeRead_eq]
    exact .encodeRead hrun
  | write k sl =>
    show StepsTo s (Machine.encodeWrite k sl e s)
    cases hok : (s.streams.slOut[k].write sl[k].toList).1 with
    | true =>
      rw [encodeWrite_of_ok hok]
      exact .encodeWrite hrun hok
    | false =>
      rw [encodeWrite_of_fail hok]
      exact .encodeFail hrun hok
  | done o => exact .encodeDone hrun

theorem StepsTo.stepDecode {s : State} {r : DecodeRun} (hrun : s.run = some (.decode r)) : StepsTo s (stepDecode r s) := by
  rw [Machine.stepDecode]
  cases hphase : r.phase with
  | read k =>
    dsimp only
    cases hk : r.present.getLsbD k.val with
    | true =>
      rw [decodeRead_of_present hk]
      exact .decodeRead hrun hphase hk
    | false =>
      rw [decodeRead_of_absent hk]
      exact .decodeSkip hrun hphase hk
  | block =>
    cases hterm : r.terminal with
    | true => exact decodeLast_eq r s ▸ .decodeLast hrun hphase hterm
    | false => exact decodeNext_eq r s ▸ .decodeNext hrun hphase hterm
  | done => exact .decodeDone hrun hphase

/-- Every step is one of these cases. -/
theorem step_cases {s t : State} (h : step s = .next t) : StepsTo s t := by
  cases hrun : s.run with
  | some r =>
    cases (step_of_run hrun).symm.trans h
    cases r with
    | encode r => exact .stepEncode hrun
    | decode r => exact .stepDecode hrun
  | none =>
    cases hreq : s.requests with
    | nil =>
      cases (step_idle hrun hreq).symm.trans h
      exact .idle hrun hreq
    | cons q rest =>
      have hserve := (step_request hrun hreq).symm.trans h
      cases q with
      | encodeRun src sl =>
        cases hserve
        exact .startEncode hrun src sl
      | decodeRun sl =>
        cases hserve
        exact .startDecode hrun sl
      | command f =>
        cases hdec : decodeFrame f with
        | error e => cases (serveFrame_of_error hdec _).symm.trans hserve
        | ok i =>
          obtain ⟨st, r, hexec, -, -, hstat⟩ := exec_cases i (s.setRequests rest)
          cases hexec.symm.trans ((serveFrame_of_ok hdec _).symm.trans hserve)
          exact .command hrun hreq hstat

/-! ### What every step leaves as it is -/

theorem StepsTo.config_eq {s t : State} (h : StepsTo s t) : t.config = s.config := by
  cases h <;> rfl

theorem StepsTo.requests_eq {s t : State} (h : StepsTo s t) (hrun : s.run ≠ none) : t.requests = s.requests := by
  cases h with
  | command h' | noRun h' | encodeStart h' | decodeStart h' => exact absurd h' hrun
  | _ => rfl

theorem StepsTo.responses_eq {s t : State} (h : StepsTo s t) (hrun : s.run ≠ none) : t.responses = s.responses := by
  cases h with
  | command h' => exact absurd h' hrun
  | _ => rfl

/-- Settles O40: no case of a step writes the constants. -/
theorem constantsNeverChange : Obligations.ConstantsNeverChange := fun _ _ h => (step_cases h).config_eq

/-- Settles O44: the steps of a run write neither requests nor responses, and an idle step writes nothing. -/
theorem requestsWaitForTheRun : Obligations.RequestsWaitForTheRun := by
  refine ⟨fun s hrun => ?_, fun s hrun hreq => step_idle hrun hreq⟩
  obtain ⟨r, hr⟩ := Option.ne_none_iff_exists'.mp hrun
  have hstep := step_of_run hr
  exact ⟨_, hstep, (step_cases hstep).requests_eq hrun, (step_cases hstep).responses_eq hrun⟩

/-! ### Reset, stream primitives and outcome codes -/

/-- Settles O38: `powerOn` gives every field its reset value. -/
theorem resetState : Obligations.ResetState := fun _ => ⟨rfl, rfl, rfl, rfl, rfl, rfl⟩

/-- Settles O39: the reset core has no run and no request, so it waits. -/
theorem hardwareResetEffect : Obligations.HardwareResetEffect := fun _ =>
  ⟨rfl, rfl, rfl, rfl, rfl, rfl, rfl, step_idle rfl rfl⟩

/-- Settles O45: the reads by `read_spec`, and the writes by the host's answer. -/
theorem streamPrimitives : Obligations.StreamPrimitives := by
  refine ⟨fun i n => ⟨_, rfl, rfl, ?_⟩, fun o bs => ⟨fun h => ?_, fun rest h => ?_, fun n rest h => ?_⟩⟩
  · rw [List.length_take, List.length_drop]
    omega
  · rw [OutStream.write, h]
  · rw [OutStream.write, h]
  · rw [OutStream.write, h]

/-- Settles O60: the fatal outcomes are the four with codes 1 to 4. -/
theorem runOutcomeCodes : Obligations.RunOutcomeCodes := by
  refine ⟨⟨rfl, rfl, rfl, rfl, rfl, rfl⟩, fun o => ?_⟩
  cases o <;> decide

end Sys2Proof.Machine
end

section
/-! What every step keeps: the counters add up (spec 10_state.md section 3), a legal state stays legal (20_memory.md section 1,
44_stream_sequencer.md section 3), and the lossy flag follows the counter (R132). -/

namespace Sys2Proof.Machine

open Sys2Proof.Claims

/-! ### The counters -/

/-- A step does to the counters no more than one command may. -/
theorem StepsTo.counters_follow {s t : State} (h : StepsTo s t) : CountersFollow s.config s.stat t.stat := by
  cases h with
  | command _ _ hstat => exact hstat
  | noRun | encodeStart | decodeStart => exact .inr (.inl rfl)
  | decodeNext => exact decodeBlock_stat_follows ..
  | _ => exact .inl rfl

theorem Stat.Bounded.zero (c : Config) : Stat.zero.Bounded c :=
  ⟨Nat.two_pow_pos _, Nat.two_pow_pos _, Nat.two_pow_pos _⟩

theorem Stat.Bounded.of_follows {c : Config} {st st' : Stat} (hst : st.Bounded c) (h : CountersFollow c st st') :
    st'.Bounded c := by
  obtain rfl | rfl | ⟨d, -, -, rfl⟩ := h
  · exact hst
  · exact .zero c
  · obtain ⟨hp, hc, hu⟩ := Stat.add_lt c st d
    exact ⟨hp, hc, hu⟩

/-- Settles O43: a delta keeps the inequality, and short of wrap the counters grow by the delta itself. -/
theorem countersAddUp : Obligations.CountersAddUp := by
  intro s t hle hwrap hstep
  obtain h | h | ⟨d, hd, hd8, h⟩ := (step_cases hstep).counters_follow
  · rwa [h]
  · rw [h]
    exact Nat.le_refl 0
  · rw [h]
    simp only [Stat.add]
    rw [Nat.mod_eq_of_lt, Nat.mod_eq_of_lt, Nat.mod_eq_of_lt] <;> omega

/-! ### Legal states -/

theorem InStream.Legal.read {i : InStream} (h : i.Legal) (n : Nat) : (i.read n).2.Legal := by
  obtain ⟨-, hlen, hbytes, hcursor⟩ := i.read_spec n
  rw [Legal, hbytes, hcursor, hlen]
  rw [Legal] at h
  omega

theorem InStream.length_read_le (i : InStream) (n : Nat) : (i.read n).1.length ≤ n := by
  obtain ⟨-, hlen, -, -⟩ := i.read_spec n
  rw [hlen]
  exact Nat.min_le_left ..

@[simp] theorem DecodePhase.slicesPassed_afterSlices {n : Nat} (h : n ≤ 8) : (afterSlices n).slicesPassed = n := by
  rw [afterSlices]
  split
  · rfl
  · simp only [slicesPassed]
    omega

@[simp] theorem DecodePhase.slicesPassed_read (k : Fin 8) : (DecodePhase.read k).slicesPassed = k.val := rfl

theorem DecodePhase.afterSlices_ne_done (n : Nat) : afterSlices n ≠ .done := by
  rw [afterSlices]
  split <;> nofun

/-- A run that starts with enough slices starts legal (R128). -/
theorem DecodeRun.Legal.initial {sl : Vector (Option (List Byte)) 8} (h : 7 ≤ presentCount sl) :
    (DecodeRun.initial sl).Legal where
  enough := (popcount_presentMask sl).symm ▸ h
  width k := by simp [DecodeRun.initial, nothingRead]
  terminalIff := by simp [DecodeRun.initial, DecodePhase.slicesPassed]
  doneTerminal := nofun
  anomalyDone := nofun

theorem DecodeRun.Legal.padAnomaly_eq_false {r : DecodeRun} (h : r.Legal) (hphase : r.phase ≠ .done) :
    r.padAnomaly = false := Bool.eq_false_iff.mpr fun ha => hphase (h.anomalyDone ha)

/-- Reading a present slice keeps a run legal (R129, R130). -/
theorem DecodeRun.Legal.afterRead {r : DecodeRun} {k : Fin 8} (h : r.Legal) (hphase : r.phase = .read k)
    (hpresent : r.present.getLsbD k.val = true) {bs : List Byte} (hbs : bs.length ≤ 3) :
    ({ r with phase := .afterSlices (k.val + 1), got := r.got.set k bs,
              terminal := r.terminal || decide (bs.length < 3) } : DecodeRun).Legal where
  enough := h.enough
  width j := by
    rw [getElem_set_fin]
    split
    · exact hbs
    · exact h.width j
  terminalIff := by
    have hterm := h.terminalIff
    rw [hphase] at hterm
    have hk : k.val + 1 ≤ 8 := k.isLt
    simp only [Bool.or_eq_true, hterm, decide_eq_true_eq, DecodePhase.slicesPassed_afterSlices hk,
      DecodePhase.slicesPassed_read, getElem_set_fin]
    constructor
    · rintro (⟨j, hj, hjp, hjl⟩ | hshort)
      · have hne : j ≠ k := fun h => Nat.ne_of_lt hj (congrArg Fin.val h)
        exact ⟨j, Nat.lt_succ_of_lt hj, hjp, by rwa [if_neg hne]⟩
      · exact ⟨k, Nat.lt_succ_self _, hpresent, by rwa [if_pos rfl]⟩
    · rintro ⟨j, hj, hjp, hjl⟩
      by_cases hjk : j = k
      · rw [if_pos hjk] at hjl
        exact .inr hjl
      · rw [if_neg hjk] at hjl
        exact .inl ⟨j, by omega, hjp, hjl⟩
  doneTerminal hd := absurd hd (DecodePhase.afterSlices_ne_done _)
  anomalyDone ha := absurd ha (Bool.eq_false_iff.mp (h.padAnomaly_eq_false (by rw [hphase]; nofun)))

/-- Passing over an absent slice keeps a run legal (R129). -/
theorem DecodeRun.Legal.afterSkip {r : DecodeRun} {k : Fin 8} (h : r.Legal) (hphase : r.phase = .read k)
    (habsent : r.present.getLsbD k.val = false) : ({ r with phase := .afterSlices (k.val + 1) } : DecodeRun).Legal where
  enough := h.enough
  width := h.width
  terminalIff := by
    have hterm := h.terminalIff
    rw [hphase] at hterm
    have hk : k.val + 1 ≤ 8 := k.isLt
    simp only [hterm, DecodePhase.slicesPassed_afterSlices hk, DecodePhase.slicesPassed_read]
    refine exists_congr fun j => and_congr_left fun ⟨hjp, _⟩ => ⟨Nat.lt_succ_of_lt, fun hj => ?_⟩
    have hjk : j ≠ k := by
      rintro rfl
      exact Bool.false_ne_true (habsent.symm.trans hjp)
    omega
  doneTerminal hd := absurd hd (DecodePhase.afterSlices_ne_done _)
  anomalyDone ha := absurd ha (Bool.eq_false_iff.mp (h.padAnomaly_eq_false (by rw [hphase]; nofun)))

/-- The terminal iteration keeps a run legal (R130). -/
theorem DecodeRun.Legal.afterLast {r : DecodeRun} (h : r.Legal) (hphase : r.phase = .block) (hterm : r.terminal = true) :
    r.afterLast.Legal where
  enough := h.enough
  width := h.width
  terminalIff := by
    have hiff := h.terminalIff
    rwa [hphase] at hiff
  doneTerminal _ := hterm
  anomalyDone _ := rfl

/-- Any other iteration keeps a run legal: it was not terminal, and the next has read nothing (R129). -/
theorem DecodeRun.Legal.afterNext {r : DecodeRun} (h : r.Legal) (hphase : r.phase = .block) (hterm : r.terminal = false)
    (acc : DecblkAcc) : (r.afterNext acc).Legal where
  enough := h.enough
  width j := by simp [DecodeRun.afterNext, nothingRead]
  terminalIff := by simp [DecodeRun.afterNext, hterm, DecodePhase.slicesPassed]
  doneTerminal := nofun
  anomalyDone ha := absurd ha (Bool.eq_false_iff.mp (h.padAnomaly_eq_false (by rw [hphase]; nofun)))

/-- After a slice write the next write is due, or the iteration ends as its terminal flag says (R125). -/
theorem EncodeRun.Legal.afterWrite (k : Fin 8) (sl : Slices) (e : Bool) :
    EncodeRun.Legal ⟨.afterWrite k sl e, e⟩ := by
  rw [EncodePhase.afterWrite]
  by_cases hk : k.val + 1 < 8
  · rw [dif_pos hk]
    trivial
  · rw [dif_neg hk]
    cases e with
    | true => exact .inl ⟨rfl, rfl⟩
    | false => rfl

/-- Every step leaves a legal sequencer state. -/
theorem StepsTo.run_legal {s t : State} (h : StepsTo s t) (hs : ∀ r, s.run = some r → r.Legal) :
    ∀ r, t.run = some r → r.Legal := by
  cases h with
  | idle hrun => exact hs
  | command hrun => exact hs
  | noRun | encodeDone | decodeDone => exact nofun
  | encodeStart => rintro _ ⟨⟩; exact rfl
  | decodeStart _ henough => rintro _ ⟨⟩; exact DecodeRun.Legal.initial henough
  | encodeRead => rintro _ ⟨⟩; trivial
  | encodeWrite => rintro _ ⟨⟩; exact EncodeRun.Legal.afterWrite ..
  | encodeFail => rintro _ ⟨⟩; exact .inr rfl
  | decodeRead hrun hphase hpresent =>
    rintro _ ⟨⟩
    exact (hs _ hrun : DecodeRun.Legal _).afterRead hphase hpresent (InStream.length_read_le ..)
  | decodeSkip hrun hphase habsent =>
    rintro _ ⟨⟩
    exact (hs _ hrun : DecodeRun.Legal _).afterSkip hphase habsent
  | decodeLast hrun hphase hterm =>
    rintro _ ⟨⟩
    exact (hs _ hrun : DecodeRun.Legal _).afterLast hphase hterm
  | decodeNext hrun hphase hterm =>
    rintro _ ⟨⟩
    exact (hs _ hrun : DecodeRun.Legal _).afterNext hphase hterm _

/-- Every step leaves the source cursor inside the source. -/
theorem StepsTo.src_legal {s t : State} (h : StepsTo s t) (hs : s.streams.src.Legal) : t.streams.src.Legal := by
  cases h with
  | encodeStart => exact Nat.zero_le _
  | encodeRead => exact hs.read 12
  | _ => exact hs

/-- Every step leaves the cursor of every slice input inside it. -/
theorem StepsTo.slIn_legal {s t : State} (h : StepsTo s t) (hs : ∀ k : Fin 8, s.streams.slIn[k].Legal) (k : Fin 8) :
    t.streams.slIn[k].Legal := by
  cases h with
  | decodeStart => simp [State.withDecodeRun, InStream.Legal]
  | @decodeRead r j hrun hphase hpresent =>
    rw [State.setRun_streams, State.setSlIn_streams, getElem_set_fin]
    split
    · exact (hs j).read 3
    · exact hs k
  | _ => exact hs k

theorem StepsTo.inv {s t : State} (h : StepsTo s t) (hs : s.Inv) : t.Inv where
  stat := h.config_eq ▸ hs.stat.of_follows h.counters_follow
  src := h.src_legal hs.src
  slIn := h.slIn_legal hs.slIn
  run := h.run_legal hs.run

/-- Settles O41: each part of the invariant is kept by every case of a step. -/
theorem stepKeepsLegalState : Obligations.StepKeepsLegalState := fun _ _ hs h => (step_cases h).inv hs

/-- Settles O42: the reset state has counters at 0, empty streams and no run. -/
theorem resetIsLegal : Obligations.ResetIsLegal where
  stat := .zero _
  src := Nat.le_refl 0
  slIn k := by simp [State.reset, State.powerOn, Streams.empty, InStream.empty, InStream.Legal]
  run := nofun

/-! ### The lossy flag -/

/-- A decode is counted uncorrectable exactly when it ends so (R77). -/
theorem decodeWord_uncorrectable (b : GeneratorMatrix) (w : Codeword) :
    0 < (decodeWord b w).2.uncorrectable ↔ (decodeWord b w).1 = .uncorrectable := by
  have hstage := decodeWord_stage b w
  generalize decodeWord b w = result at hstage ⊢
  cases hstage with
  | stage7 => exact ⟨fun _ => rfl, fun _ => Nat.one_pos⟩
  | _ => exact ⟨nofun, nofun⟩

/-- `DECBLK` counts something uncorrectable exactly when it flags the block (R98). -/
theorem decodeBlock_anyUnc_iff (c : Config) (st : Stat) (s : Vector (Option SliceTriple) 8) :
    (decodeBlock c st s).anyUnc = true ↔
      0 < ((List.range 8).map fun i => (decodeWord c.b (gather s i)).2.uncorrectable).sum := by
  rw [decodeBlock_anyUnc, List.any_eq_true, List.sum_pos_iff_exists_pos_nat]
  simp [decodeWord_uncorrectable]

/-- Short of wrap, a flagged block makes the uncorrectable counter positive, and an unflagged one leaves it. -/
theorem decodeBlock_uncorrectable_pos (c : Config) (st : Stat) (s : Vector (Option SliceTriple) 8)
    (hwrap : st.uncorrectable + 8 < 2 ^ c.cntW) :
    0 < (decodeBlock c st s).stat.uncorrectable ↔ 0 < st.uncorrectable ∨ (decodeBlock c st s).anyUnc = true := by
  have hle : ((List.range 8).map fun i => (decodeWord c.b (gather s i)).2.uncorrectable).sum ≤ 8 :=
    List.sum_le_card_nsmul _ 1 (List.forall_mem_map.mpr fun i _ =>
      (Nat.le_add_left ..).trans ((decodeWord_delta_le c.b (gather s i)).trans_eq (decodeWord_processed ..)))
  rw [decodeBlock_anyUnc_iff, decodeBlock_stat]
  simp only [Stat.add]
  rw [Nat.mod_eq_of_lt (by omega)]
  omega

theorem StepsTo.lossyTracks {s t : State} (h : StepsTo s t) (hs : LossyTracks s)
    (hwrap : s.stat.uncorrectable + 8 < 2 ^ s.config.cntW) : LossyTracks t := by
  cases h with
  | idle => exact hs
  | command hrun =>
    intro r hr
    cases hrun.symm.trans hr
  | noRun | encodeStart | encodeRead | encodeWrite | encodeFail | encodeDone | decodeDone => exact nofun
  | decodeStart => rintro _ ⟨⟩; exact ⟨nofun, nofun⟩
  | decodeRead hrun | decodeSkip hrun | decodeLast hrun => rintro _ ⟨⟩; exact (hs _ hrun :)
  | @decodeNext r hrun =>
    rintro _ ⟨⟩
    have hdecoded : 0 < (r.decoded s).stat.uncorrectable ↔ 0 < s.stat.uncorrectable ∨ (r.decoded s).anyUnc = true :=
      decodeBlock_uncorrectable_pos _ _ _ hwrap
    have hlossy : (r.afterNext (r.decoded s)).lossy = true ↔ r.lossy = true ∨ (r.decoded s).anyUnc = true :=
      Bool.or_eq_true_iff
    rw [hlossy, hs r hrun]
    exact hdecoded.symm

/-- Settles O53: the flag is kept level by every step, and a run that ends answers by it. -/
theorem lossyMeansUncorrectable : Obligations.LossyMeansUncorrectable := by
  refine fun s t hs hwrap hstep => ⟨(step_cases hstep).lossyTracks hs hwrap, fun r hrun hphase => ?_⟩
  cases (step_decodeDone hrun hphase).symm.trans hstep
  refine ⟨r.padAnomaly, ?_⟩
  simp only [State.finish_results, decodeOutcome, hs r hrun]

end Sys2Proof.Machine
end

section
/-! The slices of an encode run stay level (spec 20_memory.md R40, 44_stream_sequencer.md R126). -/

namespace Sys2Proof.Machine

open Sys2Proof.Claims

/-! ### What level slices are, phase by phase -/

section Level

variable {s : State} {blocks : List Slices} {cur : Slices}

theorem slicesLevel_of_not_encode (h : ∀ r, s.run ≠ some (.encode r)) : SlicesLevel s blocks cur := by
  rw [SlicesLevel]
  split
  · exact absurd ‹_› (h _)
  · exact absurd ‹_› (h _)
  · exact absurd ‹_› (h _)
  · exact absurd ‹_› (h _)
  · trivial

theorem slicesLevel_read_iff {e : Bool} (hrun : s.run = some (.encode ⟨.read, e⟩)) :
    SlicesLevel s blocks cur ↔ ∀ j : Fin 8, s.streams.slOut[j].bytes = sliceOf blocks j := by
  rw [SlicesLevel, hrun]

theorem slicesLevel_write_iff {k : Fin 8} {sl : Slices} {e : Bool} (hrun : s.run = some (.encode ⟨.write k sl, e⟩)) :
    SlicesLevel s blocks cur ↔ sl = cur ∧
      ∀ j : Fin 8, s.streams.slOut[j].bytes = sliceOf blocks j ++ if j < k then cur[j].toList else [] := by
  rw [SlicesLevel, hrun]

theorem slicesLevel_success_iff {e : Bool} (hrun : s.run = some (.encode ⟨.done .success, e⟩)) :
    SlicesLevel s blocks cur ↔ ∀ j : Fin 8, s.streams.slOut[j].bytes = sliceOf blocks j := by
  rw [SlicesLevel, hrun]

theorem slicesLevel_writeFailure_iff {e : Bool} (hrun : s.run = some (.encode ⟨.done .sliceWriteFailure, e⟩)) :
    SlicesLevel s blocks cur ↔ ∃ (k : Fin 8) (n : Nat), ∀ j : Fin 8, s.streams.slOut[j].bytes =
      sliceOf blocks j ++ if j < k then cur[j].toList else if j = k then cur[j].toList.take n else [] := by
  rw [SlicesLevel, hrun]

end Level

/-! ### Writing one slice of a block -/

/-- A slice holds one block more when that block's triple has been appended. -/
theorem sliceOf_append_singleton (blocks : List Slices) (cur : Slices) (j : Fin 8) :
    sliceOf (blocks ++ [cur]) j = sliceOf blocks j ++ cur[j].toList := by
  simp [sliceOf]

/-- A write to slice `k` of level slices appends `n` bytes of its triple, all of them if it succeeds. -/
theorem bytes_set_write {outs : Vector OutStream 8} {blocks : List Slices} {cur : Slices} {k : Fin 8} {n : Nat} {o : OutStream}
    (hlevel : ∀ j : Fin 8, outs[j].bytes = sliceOf blocks j ++ if j < k then cur[j].toList else [])
    (ho : o.bytes = outs[k].bytes ++ cur[k].toList.take n) (j : Fin 8) :
    (outs.set k o)[j].bytes =
      sliceOf blocks j ++ if j < k then cur[j].toList else if j = k then cur[j].toList.take n else [] := by
  rw [getElem_set_fin]
  by_cases hjk : j = k
  · subst hjk
    rw [if_pos rfl, if_neg (lt_irrefl j), if_pos rfl, ho, hlevel, if_neg (lt_irrefl j), List.append_nil]
  · rw [if_neg hjk, if_neg hjk, hlevel]

/-- A write of the whole triple makes slice `k` one of those written. -/
theorem bytes_set_write_all {outs : Vector OutStream 8} {blocks : List Slices} {cur : Slices} {k : Fin 8} {o : OutStream}
    (hlevel : ∀ j : Fin 8, outs[j].bytes = sliceOf blocks j ++ if j < k then cur[j].toList else [])
    (ho : o.bytes = outs[k].bytes ++ cur[k].toList) (j : Fin 8) :
    (outs.set k o)[j].bytes = sliceOf blocks j ++ if j.val < k.val + 1 then cur[j].toList else [] := by
  rw [bytes_set_write (n := 3) hlevel (by rw [ho, List.take_of_length_le (by simp)])]
  have hlt : j.val < k.val + 1 ↔ j < k ∨ j = k := by omega
  by_cases hjk : j = k
  · subst hjk
    simp
  · simp only [hlt, hjk, or_false, if_false]

/-- A successful write keeps the slices level: the block is still being written, or it is written and one of the blocks. -/
theorem slicesLevel_afterWrite {s : State} {blocks : List Slices} {k : Fin 8} {sl : Slices} {e : Bool} {o : OutStream}
    (hlevel : ∀ j : Fin 8, s.streams.slOut[j].bytes = sliceOf blocks j ++ if j < k then sl[j].toList else [])
    (ho : o.bytes = s.streams.slOut[k].bytes ++ sl[k].toList) :
    ∃ blocks', SlicesLevel ((s.setSlOut k o).setRun (some (.encode ⟨.afterWrite k sl e, e⟩))) blocks' sl ∧
      (blocks' = blocks ∨ (k = 7 ∧ blocks' = blocks ++ [sl])) := by
  have hbytes := bytes_set_write_all hlevel ho
  by_cases hk : k.val + 1 < 8
  · refine ⟨blocks, ?_, .inl rfl⟩
    rw [EncodePhase.afterWrite, dif_pos hk]
    exact (slicesLevel_write_iff (k := ⟨k.val + 1, hk⟩) rfl).mpr ⟨rfl, hbytes⟩
  · have hk7 : k = 7 := by omega
    have hall (j : Fin 8) : (s.streams.slOut.set k o)[j].bytes = sliceOf (blocks ++ [sl]) j := by
      rw [hbytes, if_pos (by omega), sliceOf_append_singleton]
    refine ⟨blocks ++ [sl], ?_, .inr ⟨hk7, rfl⟩⟩
    rw [EncodePhase.afterWrite, dif_neg hk]
    cases e with
    | true => exact (slicesLevel_success_iff rfl).mpr hall
    | false => exact (slicesLevel_read_iff rfl).mpr hall

/-! ### Every step keeps the slices level -/

/-- The slices are level in `t`, and hold the blocks they held in `s`, or one more when slice 7 has been written. -/
def LevelAfter (s t : State) (blocks : List Slices) : Prop :=
  ∃ (blocks' : List Slices) (cur' : Slices), SlicesLevel t blocks' cur' ∧
    (∀ e, s.run = some (.encode ⟨.read, e⟩) → blocks' = blocks) ∧
    ∀ k sl e, s.run = some (.encode ⟨.write k sl, e⟩) →
      cur' = sl ∧ (blocks' = blocks ∨ (k = 7 ∧ blocks' = blocks ++ [sl]))

/-- A step that comes from no encode run, or from the end of one, has no blocks to keep. -/
theorem levelAfter_of_not_writing {s t : State} {blocks : List Slices} (cur : Slices)
    (hs : ∀ phase e, s.run = some (.encode ⟨phase, e⟩) → ∃ o, phase = .done o) (ht : SlicesLevel t blocks cur) :
    LevelAfter s t blocks := by
  refine ⟨blocks, cur, ht, fun _ _ => rfl, fun k sl e h => ?_⟩
  obtain ⟨o, ho⟩ := hs _ _ h
  cases ho

/-- A read starts the next block, a write goes on with it or finishes it, and every other step touches no slice (R126). -/
theorem StepsTo.levelAfter {s t : State} {blocks : List Slices} {cur : Slices} (h : StepsTo s t)
    (hs : SlicesLevel s blocks cur) : LevelAfter s t blocks := by
  cases h with
  | idle hrun => exact levelAfter_of_not_writing cur (by rw [hrun]; nofun) hs
  | command hrun =>
    exact levelAfter_of_not_writing cur (by rw [hrun]; nofun) (slicesLevel_of_not_encode (by rw [hrun]; nofun))
  | noRun hrun | decodeStart hrun | decodeRead hrun | decodeSkip hrun | decodeLast hrun | decodeNext hrun | decodeDone hrun =>
    exact levelAfter_of_not_writing cur (by rw [hrun]; nofun) (slicesLevel_of_not_encode nofun)
  | encodeDone hrun =>
    refine levelAfter_of_not_writing cur (fun phase e h => ?_) (slicesLevel_of_not_encode nofun)
    cases hrun.symm.trans h
    exact ⟨_, rfl⟩
  | @encodeStart bytes sl rest hrun =>
    refine ⟨[], cur, (slicesLevel_read_iff rfl).mpr fun j => ?_, by rw [hrun]; nofun, by rw [hrun]; nofun⟩
    simp [State.withEncodeRun, sliceOf]
  | encodeRead hrun =>
    have hlevel := (slicesLevel_read_iff hrun).mp hs
    refine ⟨blocks, _, (slicesLevel_write_iff rfl).mpr ⟨rfl, fun j => ?_⟩, fun _ _ => rfl, by rw [hrun]; nofun⟩
    rw [if_neg (Fin.not_lt_zero j), List.append_nil]
    exact hlevel j
  | @encodeWrite k sl e hrun hok =>
    obtain ⟨rfl, hlevel⟩ := (slicesLevel_write_iff hrun).mp hs
    obtain ⟨-, hbytes, -⟩ := OutStream.write_spec s.streams.slOut[k] sl[k].toList
    obtain ⟨blocks', hlevel', hgrown⟩ := slicesLevel_afterWrite (e := e) hlevel (hbytes hok)
    refine ⟨blocks', sl, hlevel', by rw [hrun]; nofun, fun k' sl' e' h => ?_⟩
    cases hrun.symm.trans h
    exact ⟨rfl, hgrown⟩
  | @encodeFail k sl e hrun hfail =>
    obtain ⟨rfl, hlevel⟩ := (slicesLevel_write_iff hrun).mp hs
    obtain ⟨⟨n, hbytes⟩, -, -⟩ := OutStream.write_spec s.streams.slOut[k] sl[k].toList
    refine ⟨blocks, sl, (slicesLevel_writeFailure_iff rfl).mpr ⟨k, n, bytes_set_write hlevel hbytes⟩, by rw [hrun]; nofun,
      fun k' sl' e' h => ?_⟩
    cases hrun.symm.trans h
    exact ⟨rfl, .inl rfl⟩

/-- Settles O50: every case of a step keeps the slices level. -/
theorem slicesStayLevel : Obligations.SlicesStayLevel := fun _ _ _ _ hs h => (step_cases h).levelAfter hs

end Sys2Proof.Machine
end

section
/-! Weight, parity and the checksum under XOR (spec 40_codec.md sections 2 and 3), and what follows of the code for every matrix
(R71) and for a symmetric one (00_scope.md section 3). -/

namespace Sys2Proof

open Sys2Proof.Machine Sys2Proof.Claims

/-! ### XOR -/

theorem xor_cancel_left {n : Nat} (x y : BitVec n) : x ^^^ (x ^^^ y) = y := by
  rw [← BitVec.xor_assoc, BitVec.xor_self, BitVec.zero_xor]

theorem xor_cancel_right {n : Nat} (x y : BitVec n) : x ^^^ y ^^^ y = x := by
  rw [BitVec.xor_assoc, BitVec.xor_self, BitVec.xor_zero]

/-! ### Weight -/

/-- Adding bit by bit without carry counts every position where both bits are 1 twice too few. -/
theorem popcount_xor_add {n : Nat} (x y : BitVec n) :
    popcount (x ^^^ y) + 2 * popcount (x &&& y) = popcount x + popcount y := by
  simp only [popcount, BitVec.getLsbD_xor, BitVec.getLsbD_and]
  induction List.range n with
  | nil => rfl
  | cons p ps ih =>
    simp only [List.countP_cons]
    cases x.getLsbD p <;> cases y.getLsbD p <;> simp <;> omega

theorem popcount_xor_le {n : Nat} (x y : BitVec n) : popcount (x ^^^ y) ≤ popcount x + popcount y := by
  rw [← popcount_xor_add]
  exact Nat.le_add_right ..

/-- The weight is at most the distance to another value and the weight of that. -/
theorem popcount_le_xor_add {n : Nat} (x y : BitVec n) : popcount x ≤ popcount (x ^^^ y) + popcount y := by
  have h := popcount_xor_le (x ^^^ y) y
  rwa [xor_cancel_right] at h

theorem popcount_eq_zero_iff {n : Nat} (v : BitVec n) : popcount v = 0 ↔ v = 0#n := by
  rw [popcount, List.countP_eq_zero]
  constructor
  · intro h
    refine BitVec.eq_of_getLsbD_eq fun p hp => ?_
    simpa using h p (List.mem_range.mpr hp)
  · rintro rfl p -
    simp

theorem exists_bit_of_popcount_pos {n : Nat} {v : BitVec n} (h : 0 < popcount v) : ∃ p : Fin n, v.getLsbD p.val = true := by
  obtain ⟨p, hp, hbit⟩ := List.countP_pos_iff.mp h
  exact ⟨⟨p, List.mem_range.mp hp⟩, hbit⟩

@[simp] theorem popcount_zero (n : Nat) : popcount (0#n) = 0 := (popcount_eq_zero_iff _).mpr rfl

theorem popcount_append {n m : Nat} (u : BitVec n) (v : BitVec m) : popcount (u ++ v) = popcount u + popcount v := by
  have hlow : (List.range m).countP (fun p => (u ++ v).getLsbD p) = popcount v :=
    List.countP_congr fun p hp => by rw [BitVec.getLsbD_append, if_pos (List.mem_range.mp hp)]
  have hhigh : (List.range n).countP ((fun p => (u ++ v).getLsbD p) ∘ (m + ·)) = popcount u :=
    List.countP_congr fun p _ => by
      rw [Function.comp_apply, BitVec.getLsbD_append, if_neg (by omega), Nat.add_sub_cancel_left]
  have hrange : List.range (n + m) = List.range m ++ (List.range n).map (m + ·) := Nat.add_comm n m ▸ List.range_add
  rw [popcount, hrange, List.countP_append, List.countP_map, hlow, hhigh, Nat.add_comm]

/-- The weight of a codeword is that of its data bits and that of its checksum bits (R71). -/
theorem popcount_codeword (c : Codeword) :
    popcount c = popcount (c.extractLsb' 12 12 : DataWord) + popcount (c.extractLsb' 0 12 : DataWord) := by
  rw [← popcount_append]
  exact congrArg popcount (BitVec.extractLsb'_append_extractLsb' (w := 12) (len := 12)).symm

/-! ### Single data bits -/

theorem getLsbD_oneBit (j p : Nat) : ((1#12 <<< j) : DataWord).getLsbD p = (decide (p < 12) && decide (p = j)) := by
  rw [BitVec.getLsbD_shiftLeft, BitVec.getLsbD_one]
  by_cases hp : p < 12 <;> by_cases hj : p = j <;> simp [hp, hj]
  all_goals omega

theorem popcount_oneBit (j : Fin 12) : popcount ((1#12 <<< j.val) : DataWord) = 1 := by
  revert j
  decide

theorem popcount_rowBit (i : Fin 12) : popcount (rowBit i) = 1 := popcount_oneBit ⟨11 - i.val, by omega⟩

theorem rowBit_injective {i c : Fin 12} (h : rowBit i = rowBit c) : i = c := by
  revert i c
  decide

/-- Masking with a single bit keeps that bit alone. -/
theorem oneBit_and (j : Fin 12) (v : DataWord) : (1#12 <<< j.val) &&& v = if v.getLsbD j.val then 1#12 <<< j.val else 0#12 := by
  refine BitVec.eq_of_getLsbD_eq fun p hp => ?_
  rw [BitVec.getLsbD_and, getLsbD_oneBit]
  by_cases hpj : p = j.val
  · subst hpj
    cases v.getLsbD j.val <;> simp
  · cases v.getLsbD j.val
    · simp [hpj]
    · rw [if_pos rfl, getLsbD_oneBit]
      simp [hpj]

/-- A data word of weight 1 is the data bit of some row. -/
theorem eq_rowBit_of_popcount_eq_one {e : DataWord} (h : popcount e = 1) : ∃ i : Fin 12, e = rowBit i := by
  obtain ⟨p, hbit⟩ := exists_bit_of_popcount_pos (h.symm ▸ Nat.one_pos)
  have hsum := popcount_xor_add (1#12 <<< p.val) e
  rw [oneBit_and, if_pos hbit, popcount_oneBit, h] at hsum
  have hsame : popcount ((1#12 <<< p.val) ^^^ e) = 0 := by omega
  have hrow : 11 - (11 - p.val) = p.val := by omega
  exact ⟨⟨11 - p.val, by omega⟩, by rw [rowBit, hrow, BitVec.xor_eq_zero_iff.mp ((popcount_eq_zero_iff _).mp hsame)]⟩

/-! ### Parity -/

theorem parity_xor {n : Nat} (x y : BitVec n) : parity (x ^^^ y) = (parity x ^^ parity y) := by
  have h := popcount_xor_add x y
  unfold parity
  rcases Nat.mod_two_eq_zero_or_one (popcount x) with hx | hx <;>
    rcases Nat.mod_two_eq_zero_or_one (popcount y) with hy | hy <;> simp [hx, hy] <;> omega

theorem parity_oneBit_and (j : Fin 12) (v : DataWord) : parity ((1#12 <<< j.val) &&& v) = v.getLsbD j.val := by
  rw [oneBit_and]
  cases v.getLsbD j.val with
  | true => rw [if_pos rfl, parity, popcount_oneBit]; rfl
  | false => rw [if_neg Bool.false_ne_true, parity, popcount_zero]; rfl

/-! ### The checksum -/

theorem and_xor_distrib {n : Nat} (x y v : BitVec n) : (x ^^^ y) &&& v = (x &&& v) ^^^ (y &&& v) := by
  refine BitVec.eq_of_getLsbD_eq fun p _ => ?_
  simp only [BitVec.getLsbD_and, BitVec.getLsbD_xor, Bool.and_xor_distrib_right]

/-- A data word is fixed by the bits its rows stand for. -/
theorem eq_of_row_bits {x y : DataWord} (h : ∀ i : Fin 12, x.getLsbD (11 - i.val) = y.getLsbD (11 - i.val)) : x = y := by
  refine BitVec.eq_of_getLsbD_eq fun p hp => ?_
  have hrow : 11 - (11 - p) = p := by omega
  simpa [hrow] using h ⟨11 - p, by omega⟩

section AnyMatrix

variable (b : GeneratorMatrix)

theorem chk_xor (x y : DataWord) : chk b (x ^^^ y) = chk b x ^^^ chk b y :=
  eq_of_row_bits fun i => by
    rw [BitVec.getLsbD_xor, getLsbD_chk, getLsbD_chk, getLsbD_chk, ← parity_xor, and_xor_distrib]

@[simp] theorem chk_zero : chk b 0#12 = 0#12 := by
  have h := chk_xor b 0#12 0#12
  rwa [BitVec.xor_self, BitVec.xor_self] at h

/-- The checksum of a single data bit is a column of the matrix. -/
theorem getLsbD_chk_oneBit (j i : Fin 12) : (chk b (1#12 <<< j.val)).getLsbD (11 - i.val) = b[i].getLsbD j.val := by
  rw [getLsbD_chk, parity_oneBit_and]

/-- XORing the values `f j` of the bits `j` set in `x` commutes with a linear map of the values. -/
theorem chk_foldl_bits (x : DataWord) (f : Nat → DataWord) (ps : List Nat) (y : DataWord) :
    chk b (ps.foldl (fun y j => if x.getLsbD j then y ^^^ f j else y) y) =
      ps.foldl (fun y j => if x.getLsbD j then y ^^^ chk b (f j) else y) (chk b y) := by
  induction ps generalizing y with
  | nil => rfl
  | cons p ps ih =>
    rw [List.foldl_cons, List.foldl_cons, ih]
    cases x.getLsbD p with
    | true => rw [if_pos rfl, if_pos rfl, chk_xor]
    | false => rfl

end AnyMatrix

/-- XORing in the bits of `x` at distinct positions flips those of them that are set. -/
theorem getLsbD_foldl_oneBits (x : DataWord) {ps : List Nat} (hps : ps.Nodup) (y : DataWord) {p : Nat} (hp : p < 12) :
    (ps.foldl (fun (y : DataWord) j => if x.getLsbD j then y ^^^ (1#12 <<< j) else y) y).getLsbD p =
      (y.getLsbD p ^^ (decide (p ∈ ps) && x.getLsbD p)) := by
  induction ps generalizing y with
  | nil => simp
  | cons j js ih =>
    obtain ⟨hj, hjs⟩ := List.nodup_cons.mp hps
    rw [List.foldl_cons, ih hjs]
    by_cases hpj : p = j
    · subst hpj
      cases x.getLsbD p <;> simp [hj, hp]
    · cases x.getLsbD j
      · simp [hpj]
      · rw [if_pos rfl, BitVec.getLsbD_xor, getLsbD_oneBit]
        simp [hpj]

/-- A data word is the XOR of its bits. -/
theorem foldl_oneBits (x : DataWord) :
    (List.range 12).foldl (fun (y : DataWord) j => if x.getLsbD j then y ^^^ (1#12 <<< j) else y) 0#12 = x := by
  refine BitVec.eq_of_getLsbD_eq fun p hp => ?_
  rw [getLsbD_foldl_oneBits x List.nodup_range _ hp]
  simp [hp]

/-- GB1 read as a law of the checksum (00_scope.md section 3). -/
theorem symmetric_iff (b : GeneratorMatrix) :
    (∀ i c : Fin 12, b[i].getLsbD (11 - c.val) = b[c].getLsbD (11 - i.val)) ↔ ∀ i : Fin 12, chk b (rowBit i) = b[i] := by
  have hcolumn (i c : Fin 12) : (chk b (rowBit i)).getLsbD (11 - c.val) = b[c].getLsbD (11 - i.val) :=
    getLsbD_chk_oneBit b ⟨11 - i.val, by omega⟩ c
  constructor
  · exact fun h i => eq_of_row_bits fun c => (hcolumn i c).trans (h i c).symm
  · exact fun h i c => by rw [← hcolumn c i, h c]

/-- Settles O21: linearity bit by bit, the columns from single bits, and the sum over the bits of `x` from linearity. -/
theorem chkLaws : Obligations.ChkLaws := by
  refine fun b => ⟨chk_zero b, chk_xor b, fun j i => getLsbD_chk_oneBit b j i, fun x => ?_, (symmetric_iff b).mp⟩
  have h := chk_foldl_bits b x (1#12 <<< ·) (List.range 12) 0#12
  rwa [foldl_oneBits, chk_zero] at h

/-- Settles O22: it is the law of the checksum that says symmetry. -/
theorem symmetryByColumns : Obligations.SymmetryByColumns := symmetric_iff

/-- Settles O23: a row is the checksum of one bit, two rows that of two bits, and GB3 bounds the weight of both. -/
theorem rowBoundsFollow : Obligations.RowBoundsFollow := by
  intro b hsym hdist
  have hrow := (symmetric_iff b).mp hsym
  refine ⟨fun i => ?_, fun i c hic => ?_⟩
  · have hweight := popcount_rowBit i
    have hne : rowBit i ≠ 0#12 := by
      rw [Ne, ← popcount_eq_zero_iff, hweight]
      exact Nat.one_ne_zero
    have h := hdist (rowBit i) hne
    rw [hrow] at h
    omega
  · have hne : rowBit i ^^^ rowBit c ≠ 0#12 := fun h => hic (rowBit_injective (BitVec.xor_eq_zero_iff.mp h))
    have h := hdist _ hne
    have hweight := popcount_xor_le (rowBit i) (rowBit c)
    rw [popcount_rowBit, popcount_rowBit] at hweight
    rw [chk_xor, hrow, hrow] at h
    omega

/-! ### The code -/

section Code

variable (b : GeneratorMatrix)

theorem encodeWord_xor (x y : DataWord) : encodeWord b x ^^^ encodeWord b y = encodeWord b (x ^^^ y) := by
  rw [encodeWord, encodeWord, encodeWord, chk_xor]
  exact BitVec.xor_append

@[simp] theorem encodeWord_zero : encodeWord b 0#12 = 0#24 := by
  rw [encodeWord, chk_zero]
  rfl

@[simp] theorem encodeWord_checksum (x : DataWord) : (encodeWord b x).extractLsb' 0 12 = chk b x :=
  BitVec.extractLsb'_append_eq_right

theorem validCodeword_iff (c : Codeword) : validCodeword b c = true ↔ c.extractLsb' 0 12 = chk b (c.extractLsb' 12 12) :=
  decide_eq_true_iff

/-- The valid codewords are the encodings (R71). -/
theorem validCodeword_iff_encodeWord (c : Codeword) : validCodeword b c = true ↔ ∃ x, c = encodeWord b x := by
  rw [validCodeword_iff]
  constructor
  · intro h
    refine ⟨c.extractLsb' 12 12, ?_⟩
    rw [encodeWord, ← h]
    exact (BitVec.extractLsb'_append_extractLsb' (w := 12) (len := 12)).symm
  · rintro ⟨x, rfl⟩
    rw [encodeWord_checksum, encodeWord_dataBits]

theorem popcount_encodeWord (x : DataWord) : popcount (encodeWord b x) = popcount x + popcount (chk b x) :=
  popcount_append ..

end Code

/-- Settles O24: `encode` is linear as the checksum is, and the valid codewords are its image. -/
theorem encodeIsLinear : Obligations.EncodeIsLinear := by
  refine fun b => ⟨encodeWord_zero b, encodeWord_xor b, fun c d hc hd => ?_⟩
  obtain ⟨x, rfl⟩ := (validCodeword_iff_encodeWord b c).mp hc
  obtain ⟨y, rfl⟩ := (validCodeword_iff_encodeWord b d).mp hd
  exact (validCodeword_iff_encodeWord b _).mpr ⟨x ^^^ y, encodeWord_xor b x y⟩

/-- Settles O25: the definition, the image of `encode`, and the data bits of an encoding. -/
theorem validCodewordsAreEncodings : Obligations.ValidCodewordsAreEncodings := fun b =>
  ⟨validCodeword_iff b, validCodeword_iff_encodeWord b, encodeWord_dataBits b⟩

/-- Settles O26: a valid codeword is an encoding, whose weight GB3 bounds, and so is the XOR of two. -/
theorem codewordsAreFarApart : Obligations.CodewordsAreFarApart := by
  intro b hdist
  have hweight (c : Codeword) (hc : validCodeword b c = true) (hne : c ≠ 0#24) : 8 ≤ popcount c := by
    obtain ⟨x, rfl⟩ := (validCodeword_iff_encodeWord b c).mp hc
    rw [popcount_encodeWord]
    exact hdist x fun hx => hne (by rw [hx, encodeWord_zero])
  obtain ⟨-, -, hxor⟩ := encodeIsLinear b
  exact ⟨hweight, fun c d hc hd hne => hweight _ (hxor c d hc hd) fun h => hne (BitVec.xor_eq_zero_iff.mp h)⟩

end Sys2Proof
end

section
/-! Error correction (spec 40_codec.md section 4): the syndrome of an error, which stage catches which class of error (R78), the
soundness of every stage, and with it correction of three errors (R79) and the behaviour beyond the capacity (R81). -/

namespace Sys2Proof

open Sys2Proof.Machine Sys2Proof.Claims

/-! ### The syndrome -/

section Syndrome

variable (b : GeneratorMatrix)

/-- A received word is at a distance from an encoding that shows in its data bits and in its syndrome. -/
theorem popcount_xor_encodeWord (c : Codeword) (d : DataWord) :
    popcount (c ^^^ encodeWord b d) =
      popcount (c.extractLsb' 12 12 ^^^ d) + popcount (syndrome b c ^^^ chk b (c.extractLsb' 12 12 ^^^ d)) := by
  have hcheck : syndrome b c ^^^ chk b (c.extractLsb' 12 12 ^^^ d) = c.extractLsb' 0 12 ^^^ chk b d := by
    rw [syndrome, chk_xor, BitVec.xor_comm (chk b _) (c.extractLsb' 0 12), BitVec.xor_assoc, xor_cancel_left]
  rw [popcount_codeword, BitVec.extractLsb'_xor, BitVec.extractLsb'_xor, encodeWord_dataBits, encodeWord_checksum, hcheck]

/-- The syndrome depends on the error only. -/
theorem syndrome_encodeWord_xor (x : DataWord) (m : Codeword) :
    syndrome b (encodeWord b x ^^^ m) = chk b (m.extractLsb' 12 12) ^^^ m.extractLsb' 0 12 := by
  rw [syndrome, BitVec.extractLsb'_xor, BitVec.extractLsb'_xor, encodeWord_dataBits, encodeWord_checksum, chk_xor,
    BitVec.xor_comm (chk b x), BitVec.xor_assoc, xor_cancel_left]

end Syndrome

/-- Settles O27: the syndrome of an encoding is 0, which is stage 3. -/
theorem decodeInvertsEncode : Obligations.DecodeInvertsEncode := by
  intro b x
  have hsyn : syndrome b (encodeWord b x) = 0#12 := by
    rw [syndrome, encodeWord_dataBits, encodeWord_checksum, BitVec.xor_self]
  have hwt : popcount (syndrome b (encodeWord b x)) = 0 := by rw [hsyn, popcount_zero]
  rw [decodeWord_stage3 (by omega), hwt, encodeWord_dataBits]
  rfl

/-! ### The stages -/

/-- If a row is near, there is a first one. -/
theorem exists_firstNear {b : GeneratorMatrix} {v : DataWord} {i : Fin 12} (h : popcount (v ^^^ b[i]) ≤ 2) :
    ∃ j, FirstNear b v j :=
  (exists_firstNear_or_noneNear b v).resolve_right fun hnone => Nat.not_lt.mpr h (hnone i)

section StageOf

variable {b : GeneratorMatrix} {c : Codeword}

theorem stageOf_eq_three (hwt : popcount (syndrome b c) ≤ 3) : stageOf b c = 3 := by
  simp [stageOf, hwt]

theorem stageOf_eq_four {i : Fin 12} (hwt : 3 < popcount (syndrome b c)) (hrow : FirstNear b (syndrome b c) i) :
    stageOf b c = 4 := by
  simp [stageOf, Nat.not_le.mpr hwt, (firstNearRow_eq_some_iff ..).mpr hrow]

theorem stageOf_eq_five (hwt : 3 < popcount (syndrome b c)) (hnone : NoneNear b (syndrome b c))
    (hinv : popcount (chk b (syndrome b c)) ≤ 3) : stageOf b c = 5 := by
  simp [stageOf, Nat.not_le.mpr hwt, (firstNearRow_eq_none_iff ..).mpr hnone, hinv]

theorem stageOf_eq_six {i : Fin 12} (hwt : 3 < popcount (syndrome b c)) (hnone : NoneNear b (syndrome b c))
    (hinv : 3 < popcount (chk b (syndrome b c))) (hrow : FirstNear b (chk b (syndrome b c)) i) : stageOf b c = 6 := by
  simp [stageOf, Nat.not_le.mpr hwt, (firstNearRow_eq_none_iff ..).mpr hnone, Nat.not_le.mpr hinv,
    (firstNearRow_eq_some_iff ..).mpr hrow]

end StageOf

/-- An uncorrectable word is one of stage 7, and counts as such. -/
theorem decodeWord_of_uncorrectable {b : GeneratorMatrix} {c : Codeword} (h : (decodeWord b c).1 = .uncorrectable) :
    decodeWord b c = (.uncorrectable, ⟨1, 0, 1⟩) := by
  have hstage := decodeWord_stage b c
  generalize decodeWord b c = result at h hstage ⊢
  cases hstage with
  | stage7 => rfl
  | _ => cases h

section GoodMatrix

variable {b : GeneratorMatrix} (hb : GoodB b)
include hb

theorem GoodB.chk_rowBit (i : Fin 12) : chk b (rowBit i) = b[i] := (symmetric_iff b).mp hb.symmetric i

/-- Every stage is sound: a decoded data word explains the received word by at most three errors (R77, R81). -/
theorem GoodB.decode_sound {c : Codeword} {d : DataWord} (h : (decodeWord b c).1 = .data d) :
    popcount (c ^^^ encodeWord b d) ≤ 3 := by
  rw [popcount_xor_encodeWord]
  have hstage := decodeWord_stage b c
  generalize decodeWord b c = result at h hstage
  cases hstage with
  | stage3 hwt =>
    cases h
    rw [BitVec.xor_self, popcount_zero, chk_zero, BitVec.xor_zero, Nat.zero_add]
    exact hwt
  | stage4 hwt hrow =>
    cases h
    obtain ⟨hnear, -⟩ := hrow
    rw [xor_cancel_left, hb.chk_rowBit, popcount_rowBit]
    omega
  | stage5 hwt hnone hinv =>
    cases h
    rw [xor_cancel_left, hb.selfInverse, BitVec.xor_self, popcount_zero]
    exact hinv
  | @stage6 i hwt hnone hinv hrow =>
    cases h
    obtain ⟨hnear, -⟩ := hrow
    rw [BitVec.xor_assoc, xor_cancel_left, chk_xor, hb.selfInverse, xor_cancel_left, ← hb.chk_rowBit i, hb.selfInverse,
      popcount_rowBit, hb.chk_rowBit]
    omega
  | stage7 => cases h

/-- Two data words whose encodings explain one received word by 3 and by at most 4 errors are the same (R81). -/
theorem GoodB.eq_of_decode {x d : DataWord} {m : Codeword} (hm : popcount m ≤ 4)
    (h : (decodeWord b (encodeWord b x ^^^ m)).1 = .data d) : d = x := by
  have hnear := hb.decode_sound h
  rw [BitVec.xor_comm _ m, BitVec.xor_assoc, encodeWord_xor, BitVec.xor_comm] at hnear
  have hweight := popcount_le_xor_add (encodeWord b (x ^^^ d)) m
  by_contra hne
  have hdist := hb.distance (x ^^^ d) fun h => hne (BitVec.xor_eq_zero_iff.mp h).symm
  rw [popcount_encodeWord] at hweight
  omega

/-- Only an error of at most three bits is ever corrected (R81). -/
theorem GoodB.popcount_le_three {x : DataWord} {m : Codeword} (h : (decodeWord b (encodeWord b x ^^^ m)).1 = .data x) :
    popcount m ≤ 3 := by
  have hnear := hb.decode_sound h
  rwa [BitVec.xor_comm _ m, xor_cancel_right] at hnear

/-! ### Which stage catches which error -/

section ErrorClass

variable {e f : DataWord}

/-- Data errors spread over the checksum (GB3). -/
theorem GoodB.lt_popcount_syndrome (he : 1 ≤ popcount e) (hef : popcount e + popcount f ≤ 3) :
    3 < popcount (chk b e ^^^ f) := by
  have hdist := hb.distance e fun h => by rw [h, popcount_zero] at he; omega
  have hweight := popcount_le_xor_add (chk b e) f
  omega

/-- Two data errors are too far from every row: with the row's own bit they are still an error (GB3). -/
theorem GoodB.noneNear_syndrome (he : 2 ≤ popcount e) (hef : popcount e + popcount f ≤ 3) : NoneNear b (chk b e ^^^ f) := by
  intro j
  have hne : e ^^^ rowBit j ≠ 0#12 := fun h => by
    rw [BitVec.xor_eq_zero_iff.mp h, popcount_rowBit] at he
    omega
  have hdist := hb.distance _ hne
  have hdata := popcount_xor_le e (rowBit j)
  have hcheck := popcount_le_xor_add (chk b (e ^^^ rowBit j)) f
  have hxor : chk b (e ^^^ rowBit j) ^^^ f = chk b e ^^^ f ^^^ b[j] := by
    rw [chk_xor, hb.chk_rowBit, BitVec.xor_assoc, BitVec.xor_assoc, BitVec.xor_comm b[j]]
  rw [popcount_rowBit] at hdata
  rw [hxor] at hcheck
  omega

/-- The checksum of the syndrome is the data error and the checksum of the checksum error (GB2). -/
theorem GoodB.chk_syndrome : chk b (chk b e ^^^ f) = e ^^^ chk b f := by
  rw [chk_xor, hb.selfInverse]

/-- One data error leaves the syndrome near its row. -/
theorem GoodB.exists_firstNear_syndrome (he : popcount e = 1) (hf : popcount f ≤ 2) :
    ∃ i, FirstNear b (chk b e ^^^ f) i := by
  obtain ⟨i, rfl⟩ := eq_rowBit_of_popcount_eq_one he
  refine exists_firstNear (i := i) ?_
  rwa [hb.chk_rowBit, BitVec.xor_comm b[i], xor_cancel_right]

/-- One checksum error leaves the checksum of the syndrome near its row, but heavy (GB4). -/
theorem GoodB.chk_syndrome_near (he : popcount e = 2) (hf : popcount f = 1) :
    3 < popcount (e ^^^ chk b f) ∧ ∃ i, FirstNear b (e ^^^ chk b f) i := by
  obtain ⟨i, rfl⟩ := eq_rowBit_of_popcount_eq_one hf
  rw [hb.chk_rowBit]
  refine ⟨?_, exists_firstNear (i := i) ?_⟩
  · have hrow := hb.rowWeight i
    have hweight := popcount_le_xor_add b[i] e
    rw [BitVec.xor_comm] at hweight
    omega
  · rw [xor_cancel_right]
    exact Nat.le_of_eq he

end ErrorClass

end GoodMatrix

/-- Settles O29: each class meets the conditions of its stage, and the stage says what the decode gives. -/
theorem errorClassReachesStage : Obligations.ErrorClassReachesStage := by
  intro b hb x m
  dsimp only
  have hsyn := syndrome_encodeWord_xor b x m
  generalize encodeWord b x ^^^ m = c at hsyn ⊢
  generalize (m.extractLsb' 12 12 : DataWord) = e at hsyn ⊢
  generalize (m.extractLsb' 0 12 : DataWord) = f at hsyn ⊢
  refine ⟨fun he hf => ?stage3, fun he hf => ?stage4, fun he hf => ?stage5, fun he hf => ?stage6⟩
  case stage3 =>
    have hwt : popcount (syndrome b c) ≤ 3 := by
      rwa [hsyn, (popcount_eq_zero_iff e).mp he, chk_zero, BitVec.zero_xor]
    exact ⟨stageOf_eq_three hwt, decodeWord_stage3 hwt⟩
  case stage4 =>
    have hwt := hb.lt_popcount_syndrome (e := e) (f := f) (by omega) (by omega)
    obtain ⟨i, hrow⟩ := hb.exists_firstNear_syndrome he hf
    rw [← hsyn] at hwt hrow
    exact ⟨stageOf_eq_four hwt hrow, i, hrow, decodeWord_stage4 hwt hrow⟩
  case stage5 =>
    have hwt := hb.lt_popcount_syndrome (e := e) (f := f) (by omega) (by omega)
    have hnone := hb.noneNear_syndrome (e := e) (f := f) (by omega) (by omega)
    rw [← hsyn] at hwt hnone
    have hinv : popcount (chk b (syndrome b c)) ≤ 3 := by
      rw [hsyn, hb.chk_syndrome, (popcount_eq_zero_iff f).mp hf, chk_zero, BitVec.xor_zero]
      omega
    exact ⟨stageOf_eq_five hwt hnone hinv, hnone, decodeWord_stage5 hwt hnone hinv⟩
  case stage6 =>
    have hwt := hb.lt_popcount_syndrome (e := e) (f := f) (by omega) (by omega)
    have hnone := hb.noneNear_syndrome (e := e) (f := f) (by omega) (by omega)
    obtain ⟨hinv, i, hrow⟩ := hb.chk_syndrome_near he hf
    rw [← hb.chk_syndrome] at hinv hrow
    rw [← hsyn] at hwt hnone hinv hrow
    exact ⟨stageOf_eq_six hwt hnone hinv hrow, hnone, i, hrow, decodeWord_stage6 hwt hnone hinv hrow⟩

/-! ### Correction, and beyond the capacity -/

/-- An error of at most three bits is in one of the classes of R78, so the decode gives data and counts one corrected codeword,
unless the word was received as sent. -/
theorem GoodB.exists_decodeWord_eq_data {b : GeneratorMatrix} (hb : GoodB b) (x : DataWord) {m : Codeword}
    (hm : popcount m ≤ 3) :
    ∃ d, decodeWord b (encodeWord b x ^^^ m) = (.data d, ⟨1, if m = 0#24 then 0 else 1, 0⟩) := by
  obtain ⟨hclass3, hclass4, hclass5, hclass6⟩ := errorClassReachesStage b hb x m
  have hsplit := popcount_codeword m
  have hsyn := syndrome_encodeWord_xor b x m
  by_cases hm0 : m = 0#24
  · subst hm0
    exact ⟨x, by rw [BitVec.xor_zero, decodeInvertsEncode b x]; rfl⟩
  have hpos : 0 < popcount m := Nat.pos_of_ne_zero fun h => hm0 ((popcount_eq_zero_iff m).mp h)
  simp only [hm0, if_false]
  have hdata : popcount (m.extractLsb' 12 12 : DataWord) = 0 ∨ popcount (m.extractLsb' 12 12 : DataWord) = 1 ∨
      popcount (m.extractLsb' 12 12 : DataWord) = 2 ∨ popcount (m.extractLsb' 12 12 : DataWord) = 3 := by omega
  rcases hdata with he | he | he | he
  · obtain ⟨-, h⟩ := hclass3 he (by omega)
    have hcount : popcount (syndrome b (encodeWord b x ^^^ m)) ≠ 0 := by
      rw [hsyn, (popcount_eq_zero_iff _).mp he, chk_zero, BitVec.zero_xor]
      omega
    rw [if_neg hcount] at h
    exact ⟨_, h⟩
  · obtain ⟨-, i, -, h⟩ := hclass4 he (by omega)
    exact ⟨_, h⟩
  · rcases Nat.eq_zero_or_pos (popcount (m.extractLsb' 0 12 : DataWord)) with hf | hf
    · obtain ⟨-, -, h⟩ := hclass5 (.inl he) hf
      exact ⟨_, h⟩
    · obtain ⟨-, -, i, -, h⟩ := hclass6 he (by omega)
      exact ⟨_, h⟩
  · obtain ⟨-, -, h⟩ := hclass5 (.inr he) (by omega)
    exact ⟨_, h⟩

/-- Settles O28: some data word is decoded, and it can only be the right one. -/
theorem correctsThreeErrors : Obligations.CorrectsThreeErrors := by
  intro b hb x m hm
  obtain ⟨d, hd⟩ := hb.exists_decodeWord_eq_data x hm
  have hdx : d = x := hb.eq_of_decode (Nat.le_succ_of_le hm) (congrArg Prod.fst hd)
  rw [hd, hdx]

/-- Settles O30: a decoded data word would be the right one, and then the error would have at most three bits. -/
theorem fourErrorsUncorrectable : Obligations.FourErrorsUncorrectable := by
  intro b hb x m hm
  refine decodeWord_of_uncorrectable ?_
  cases h : (decodeWord b (encodeWord b x ^^^ m)).1 with
  | uncorrectable => rfl
  | data d =>
    have hdx := hb.eq_of_decode (Nat.le_of_eq hm) h
    have hle := hb.popcount_le_three (hdx ▸ h)
    omega

/-- Settles O31: the right word is decoded only from an error of at most three bits. -/
theorem fiveErrorsNeverRight : Obligations.FiveErrorsNeverRight := fun _ hb _ _ hm h =>
  Nat.not_lt.mpr (hb.popcount_le_three h) (Nat.le_trans (by decide) hm)

end Sys2Proof
end

section
/-! Laws of the block operations (spec 41_striper.md): the structure of the slices (R95), the independence and the order of the
planes (R103, R154), `DECBLK` after `ENCBLK` with all slices and with one lost, and `unpad` after `pad` (42_padding.md). -/

namespace Sys2Proof

open Sys2Proof.Machine Sys2Proof.Claims

/-! ### The structure of the slices -/

theorem getLsbD_plane_of_lt (blk : Block) (i : Nat) (j : Fin 12) : (plane blk i).getLsbD j.val = blk[j].getLsbD i := by
  rw [getLsbD_plane, decide_eq_true j.isLt, Bool.true_and, byteAt_of_lt _ _ j.isLt]
  rfl

theorem plane_congr {blk blk' : Block} {i : Nat} (h : ∀ j : Fin 12, blk[j].getLsbD i = blk'[j].getLsbD i) :
    plane blk i = plane blk' i := by
  refine BitVec.eq_of_getLsbD_eq fun p hp => ?_
  rw [getLsbD_plane_of_lt blk i ⟨p, hp⟩, getLsbD_plane_of_lt blk' i ⟨p, hp⟩, h]

theorem plane_xor (blk blk' : Block) (i : Nat) :
    plane (Vector.ofFn fun j => blk[j] ^^^ blk'[j]) i = plane blk i ^^^ plane blk' i := by
  refine BitVec.eq_of_getLsbD_eq fun p hp => ?_
  rw [BitVec.getLsbD_xor, getLsbD_plane_of_lt _ i ⟨p, hp⟩, getLsbD_plane_of_lt _ i ⟨p, hp⟩, getLsbD_plane_of_lt _ i ⟨p, hp⟩,
    Fin.getElem_fin, Vector.getElem_ofFn, BitVec.getLsbD_xor]

/-- The data bits of the codewords stand in slices 4 to 7, byte by byte (R95). -/
theorem encodeBlock_dataSlices (b : GeneratorMatrix) (blk : Block) (m : Fin 4) (t : Fin 3) :
    (encodeBlock b blk)[4 + m.val][t] = blk[3 * m.val + t.val] := by
  refine BitVec.eq_of_getLsbD_eq fun i hi => ?_
  have hpos : 3 * (4 + m.val) + t.val = 12 + (3 * m.val + t.val) := by omega
  have hslice := getLsbD_encodeBlock b blk ⟨4 + m.val, by omega⟩ t hi
  rw [hpos, getLsbD_encodeWord_add] at hslice
  exact hslice.trans (getLsbD_plane_of_lt blk i ⟨3 * m.val + t.val, by omega⟩)

/-- Settles O32: bit `i` of every slice byte is a bit of the codeword of plane `i`. -/
theorem encblkStructure : Obligations.EncblkStructure := by
  refine fun b blk => ⟨fun k t i hi => getLsbD_encodeBlock b blk k t hi, encodeBlock_dataSlices b blk,
    fun k t i hi => ?checksum, fun blk' k t => ?linear⟩
  case checksum =>
    exact (getLsbD_encodeBlock b blk ⟨k.val, by omega⟩ t hi).trans (getLsbD_encodeWord_of_lt _ _ (by simp only; omega))
  case linear =>
    refine BitVec.eq_of_getLsbD_eq fun i hi => ?_
    rw [BitVec.getLsbD_xor, getLsbD_encodeBlock _ _ _ _ hi, getLsbD_encodeBlock _ _ _ _ hi, getLsbD_encodeBlock _ _ _ _ hi,
      plane_xor, ← encodeWord_xor, BitVec.getLsbD_xor]

/-! ### Lanes and planes -/

theorem getLsbD_sliceByte_congr {sl sl' : Slices} {i : Nat}
    (h : ∀ (k : Fin 8) (t : Fin 3), sl[k][t].getLsbD i = sl'[k][t].getLsbD i) {p : Nat} (hp : p < 24) :
    (sliceByte sl (p / 3) (p % 3)).getLsbD i = (sliceByte sl' (p / 3) (p % 3)).getLsbD i := by
  have hk : p / 3 < 8 := by omega
  have ht : p % 3 < 3 := Nat.mod_lt _ (by decide)
  rw [sliceByte_of_lt sl _ _ hk ht, sliceByte_of_lt sl' _ _ hk ht]
  exact h ⟨p / 3, hk⟩ ⟨p % 3, ht⟩

/-- The received word of plane `i` is made of bit `i` of the slice bytes only (R96). -/
theorem received_congr {sl sl' : Slices} {i : Nat}
    (h : ∀ (k : Fin 8) (t : Fin 3), sl[k][t].getLsbD i = sl'[k][t].getLsbD i) (present : BitVec 8) :
    received present sl i = received present sl' i := by
  refine BitVec.eq_of_getLsbD_eq fun p hp => ?_
  rw [received, received, getLsbD_ofBits, getLsbD_ofBits, getLsbD_sliceByte_congr h hp]

/-- Settles O33: a lane of the slices comes from one plane, and a lane of the block from one received word. -/
theorem lanesAreIndependent : Obligations.LanesAreIndependent := by
  refine fun c i hi => ⟨fun blk blk' h k t => ?_, fun st st' p sl sl' h j => ?_⟩
  · rw [getLsbD_encodeBlock _ _ _ _ hi, getLsbD_encodeBlock _ _ _ _ hi, plane_congr h]
  · rw [getLsbD_decodeBlock _ _ _ _ hi, getLsbD_decodeBlock _ _ _ _ hi, gather_presentSlices, gather_presentSlices,
      received_congr h]

/-- Two states of the loop of `DECBLK` that agree in every bit, the flag and the counters are the same. -/
theorem DecblkAcc.ext_bits {a a' : DecblkAcc} (hout : ∀ (j : Fin 12), ∀ p < 8, a.out[j].getLsbD p = a'.out[j].getLsbD p)
    (hunc : a.anyUnc = a'.anyUnc) (hstat : a.stat = a'.stat) : a = a' := by
  have hblk : a.out = a'.out := Vector.ext fun j hj => BitVec.eq_of_getLsbD_eq (hout ⟨j, hj⟩)
  cases a
  cases a'
  simp_all

/-- Settles O34: what the loops leave depends on the set of planes only, and the counters on the sum of their deltas. -/
theorem planeOrderUnobservable : Obligations.PlaneOrderUnobservable := by
  intro l hperm
  have hlt : ∀ i ∈ l, i < 8 := fun i hi => List.mem_range.mp (hperm.mem_iff.mp hi)
  have hne : l ≠ [] := by rintro rfl; exact absurd hperm.length_eq (by decide)
  refine ⟨fun b blk => ?_, fun c st s => DecblkAcc.ext_bits (fun j p _ => ?_) ?_ ?_⟩
  · refine Vector.ext fun k hk => Vector.ext fun t ht => BitVec.eq_of_getLsbD_eq fun p _ => ?_
    have hl := getLsbD_foldl_scatter (fun i => encodeWord b (plane blk i)) hlt zeroSlices ⟨k, hk⟩ ⟨t, ht⟩ p
    have hrange := getLsbD_foldl_scatter (fun i => encodeWord b (plane blk i)) (ps := List.range 8)
      (fun _ => List.mem_range.mp) zeroSlices ⟨k, hk⟩ ⟨t, ht⟩ p
    simp only [hperm.mem_iff] at hl
    exact hl.trans hrange.symm
  · rw [decodeBlock, getLsbD_foldl_decodePlane c s hlt, getLsbD_foldl_decodePlane c s (fun _ => List.mem_range.mp)]
    simp only [hperm.mem_iff]
  · rw [decodeBlock, anyUnc_foldl_decodePlane, anyUnc_foldl_decodePlane, hperm.any_eq]
  · rw [decodeBlock, stat_foldl_decodePlane c s hne, stat_foldl_decodePlane c s (by decide)]
    simp only [totalDelta, (hperm.map _).sum_eq]

/-! ### Decoding a block -/

theorem sum_map_ite_eq_countP (f : Nat → Bool) (ps : List Nat) :
    (ps.map fun i => if f i then 1 else 0).sum = ps.countP f := by
  induction ps with
  | nil => rfl
  | cons p ps ih => rw [List.map_cons, List.sum_cons, ih, List.countP_cons, Nat.add_comm]

/-- A block all of whose planes decode to their data word is decoded, with the planes counted that were corrected. -/
theorem decodeBlock_of_planes {c : Config} {s : Vector (Option SliceTriple) 8} {blk : Block} {hit : Nat → Bool}
    (h : ∀ i < 8, decodeWord c.b (gather s i) = (.data (plane blk i), ⟨1, if hit i then 1 else 0, 0⟩)) (st : Stat) :
    decodeBlock c st s = ⟨blk, false, st.add c ⟨8, planesWith hit, 0⟩⟩ := by
  have hmap {α : Type} (f : DecodeResult × Delta → α) : (List.range 8).map (fun i => f (decodeWord c.b (gather s i))) =
      (List.range 8).map fun i => f (.data (plane blk i), ⟨1, if hit i then 1 else 0, 0⟩) :=
    List.map_congr_left fun i hi => congrArg f (h i (List.mem_range.mp hi))
  refine DecblkAcc.ext_bits (fun j p hp => ?out) ?unc ?stat
  case out => rw [getLsbD_decodeBlock c s st j hp, h p hp, DecodeResult.deposited, getLsbD_plane_of_lt]
  case unc =>
    rw [decodeBlock_anyUnc, List.any_eq_false]
    intro i hi
    simp [h i (List.mem_range.mp hi)]
  case stat =>
    rw [decodeBlock_stat, hmap (fun r => r.2.corrected), hmap (fun r => r.2.uncorrectable), sum_map_ite_eq_countP, planesWith]
    rfl

/-- The codeword of plane `i` is received where the slices of a block are present, and 0 elsewhere. -/
theorem getLsbD_received_encodeBlock (b : GeneratorMatrix) (blk : Block) (present : BitVec 8) {i : Nat} (hi : i < 8) {p : Nat}
    (hp : p < 24) : (received present (encodeBlock b blk) i).getLsbD p =
      (present.getLsbD (p / 3) && (encodeWord b (plane blk i)).getLsbD p) := by
  have hk : p / 3 < 8 := by omega
  have ht : p % 3 < 3 := Nat.mod_lt _ (by decide)
  have hslice := getLsbD_encodeBlock b blk ⟨p / 3, hk⟩ ⟨p % 3, ht⟩ hi
  rw [received, getLsbD_ofBits, sliceByte_of_lt _ _ _ hk ht, decide_eq_true hp, Bool.true_and]
  rw [Nat.div_add_mod] at hslice
  exact congrArg _ hslice

theorem received_encodeBlock_all (b : GeneratorMatrix) (blk : Block) {i : Nat} (hi : i < 8) :
    received 0xFF#8 (encodeBlock b blk) i = encodeWord b (plane blk i) := by
  refine BitVec.eq_of_getLsbD_eq fun p hp => ?_
  have hall : ∀ k < 8, (0xFF#8).getLsbD k = true := by decide
  rw [getLsbD_received_encodeBlock b blk _ hi hp, hall _ (by omega), Bool.true_and]

/-- `DECBLK` undoes `ENCBLK`, for every matrix (41_striper.md section 2). -/
theorem decodeBlock_encodeBlock (c : Config) (st : Stat) (blk : Block) :
    decodeBlock c st (presentSlices 0xFF#8 (encodeBlock c.b blk)) = ⟨blk, false, st.add c ⟨8, 0, 0⟩⟩ := by
  refine decodeBlock_of_planes (hit := fun _ => false) (fun i hi => ?_) st
  rw [gather_presentSlices, received_encodeBlock_all c.b blk hi, decodeInvertsEncode]
  rfl

/-- Settles O35: `DECBLK` answers what `decodeBlock` gives for all eight slices. -/
theorem decblkInvertsEncblk : Obligations.DecblkInvertsEncblk := by
  intro s blk
  rw [exec_decblk, decodeBlock_encodeBlock]
  rfl

/-! ### One slice lost -/

/-- The bits of a codeword that slice `k` carries: the error when slice `k` is absent. -/
def erasedBits (cw : Codeword) (k : Fin 8) : Codeword := ofBits 24 fun p => decide (p / 3 = k.val) && cw.getLsbD p

theorem getLsbD_allBut {k : Fin 8} {j : Nat} (hj : j < 8) : (allBut k).getLsbD j = !decide (j = k.val) := by
  have h : ∀ k j : Fin 8, (allBut k).getLsbD j.val = !decide (j.val = k.val) := by decide
  exact h k ⟨j, hj⟩

theorem received_encodeBlock_allBut (b : GeneratorMatrix) (blk : Block) (k : Fin 8) {i : Nat} (hi : i < 8) :
    received (allBut k) (encodeBlock b blk) i =
      encodeWord b (plane blk i) ^^^ erasedBits (encodeWord b (plane blk i)) k := by
  refine BitVec.eq_of_getLsbD_eq fun p hp => ?_
  rw [getLsbD_received_encodeBlock b blk _ hi hp, getLsbD_allBut (by omega), BitVec.getLsbD_xor, erasedBits, getLsbD_ofBits,
    decide_eq_true hp, Bool.true_and]
  by_cases hpk : p / 3 = k.val <;> simp [hpk]

/-- A slice carries three bits of each codeword. -/
theorem popcount_erasedBits_le (cw : Codeword) (k : Fin 8) : popcount (erasedBits cw k) ≤ 3 := by
  have hcarried : ∀ k : Fin 8, (List.range 24).countP (fun p => decide (p / 3 = k.val)) = 3 := by decide
  rw [← hcarried k, popcount]
  refine List.countP_mono_left fun p _ h => ?_
  rw [erasedBits, getLsbD_ofBits] at h
  simp only [Bool.and_eq_true] at h
  obtain ⟨-, hslice, -⟩ := h
  exact hslice

/-- A lost slice is no error exactly when its three bits were 0. -/
theorem erasedBits_eq_zero_iff (cw : Codeword) (k : Fin 8) : erasedBits cw k = 0#24 ↔ sliceTouches cw k = false := by
  have hk := k.isLt
  have hbit (p : Nat) (hp : p < 24) : (erasedBits cw k).getLsbD p = (decide (p / 3 = k.val) && cw.getLsbD p) := by
    rw [erasedBits, getLsbD_ofBits, decide_eq_true hp, Bool.true_and]
  simp only [sliceTouches, Bool.or_eq_false_iff]
  constructor
  · intro h
    have hzero (t : Nat) (ht : t < 3) : cw.getLsbD (3 * k.val + t) = false := by
      have hdiv : (3 * k.val + t) / 3 = k.val := by omega
      have hb := hbit (3 * k.val + t) (by omega)
      rwa [h, hdiv, decide_eq_true rfl, Bool.true_and, BitVec.getLsbD_zero, eq_comm] at hb
    exact ⟨⟨hzero 0 (by decide), hzero 1 (by decide)⟩, hzero 2 (by decide)⟩
  · rintro ⟨⟨h0, h1⟩, h2⟩
    refine BitVec.eq_of_getLsbD_eq fun p hp => ?_
    rw [hbit p hp, BitVec.getLsbD_zero]
    by_cases hpk : p / 3 = k.val
    · rcases (by omega : p = 3 * k.val ∨ p = 3 * k.val + 1 ∨ p = 3 * k.val + 2) with rfl | rfl | rfl
      · rw [h0, Bool.and_false]
      · rw [h1, Bool.and_false]
      · rw [h2, Bool.and_false]
    · rw [decide_eq_false hpk, Bool.false_and]

/-- `DECBLK` of seven slices undoes `ENCBLK` under `GoodB`, and corrects the planes that had a 1 in the lost slice
(41_striper.md section 2). -/
theorem decodeBlock_encodeBlock_allBut {c : Config} (hb : GoodB c.b) (st : Stat) (blk : Block) (k : Fin 8) :
    decodeBlock c st (presentSlices (allBut k) (encodeBlock c.b blk)) =
      ⟨blk, false, st.add c ⟨8, planesWith fun i => sliceTouches (encodeWord c.b (plane blk i)) k, 0⟩⟩ := by
  refine decodeBlock_of_planes (fun i hi => ?_) st
  rw [gather_presentSlices, received_encodeBlock_allBut c.b blk k hi,
    correctsThreeErrors c.b hb _ _ (popcount_erasedBits_le ..)]
  simp only [erasedBits_eq_zero_iff]
  cases sliceTouches (encodeWord c.b (plane blk i)) k <;> rfl

/-- Settles O36: `DECBLK` answers what `decodeBlock` gives without slice `k`. -/
theorem decblkRecoversOneLostSlice : Obligations.DecblkRecoversOneLostSlice := by
  intro s blk k hb
  rw [exec_decblk, decodeBlock_encodeBlock_allBut hb]
  rfl

/-! ### Padding -/

/-- The bytes of a padded chunk begin with the chunk (R107). -/
theorem take_toList_pad {ch : List Byte} (h : ch.length ≤ 11) : (pad ch).toList.take ch.length = ch := by
  refine List.ext_getElem (by simp; omega) fun j _ hj => ?_
  have hpad := getElem_pad ch ⟨j, by omega⟩
  rw [if_pos hj, List.getD_eq_getElem _ _ hj] at hpad
  simpa using hpad

/-- Settles O37: the pad byte is the number of pad bytes, which is in 1..12, and they are stripped. -/
theorem unpadInvertsPad : Obligations.UnpadInvertsPad := by
  intro ch hch
  have hbyte : (pad ch)[11].toNat = 12 - ch.length := by
    have hpad := getElem_pad ch 11
    rw [if_neg (Nat.not_lt.mpr hch : ¬(11 : Fin 12).val < ch.length)] at hpad
    rw [show (pad ch)[11] = _ from hpad, BitVec.toNat_ofNat]
    omega
  have hkept : 12 - (12 - ch.length) = ch.length := by omega
  rw [unpad_of_mem (by omega) (by omega), hbyte, hkept, take_toList_pad hch]

end Sys2Proof
end

section
/-! The streams of a run (spec 20_memory.md R32, R46), and the single procedures of the sequencer: the start of an encode run
(R124), a failing write (R126, R152), one slice read (R129) and the terminal iteration (R130, R131, R133). -/

namespace Sys2Proof.Machine

open Sys2Proof.Claims

/-! ### Streams only move forward -/

theorem OutStream.bytes_prefix_write (o : OutStream) (bs : List Byte) : o.bytes <+: (o.write bs).2.bytes := by
  obtain ⟨⟨n, hbytes⟩, -, -⟩ := o.write_spec bs
  rw [hbytes]
  exact List.prefix_append ..

section Forward

variable {s t : State} (h : StepsTo s t) (hrun : s.run ≠ none)
include h hrun

theorem StepsTo.out_prefix : s.streams.out <+: t.streams.out := by
  cases h with
  | decodeStart h' => exact absurd h' hrun
  | decodeLast | decodeNext => exact List.prefix_append ..
  | _ => exact List.prefix_rfl

theorem StepsTo.src_forward :
    t.streams.src.bytes = s.streams.src.bytes ∧ s.streams.src.cursor ≤ t.streams.src.cursor := by
  cases h with
  | encodeStart h' => exact absurd h' hrun
  | encodeRead => exact ⟨rfl, Nat.le_add_right ..⟩
  | _ => exact ⟨rfl, Nat.le_refl _⟩

theorem StepsTo.slOut_prefix (k : Fin 8) : s.streams.slOut[k].bytes <+: t.streams.slOut[k].bytes := by
  cases h with
  | encodeStart h' => exact absurd h' hrun
  | encodeWrite | encodeFail =>
    rw [State.setRun_streams, State.setSlOut_streams, getElem_set_fin]
    split
    · next hk =>
      subst hk
      exact OutStream.bytes_prefix_write ..
    · exact List.prefix_rfl
  | _ => exact List.prefix_rfl

theorem StepsTo.slIn_forward (k : Fin 8) :
    t.streams.slIn[k].bytes = s.streams.slIn[k].bytes ∧ s.streams.slIn[k].cursor ≤ t.streams.slIn[k].cursor := by
  cases h with
  | decodeStart h' => exact absurd h' hrun
  | decodeRead =>
    rw [State.setRun_streams, State.setSlIn_streams, getElem_set_fin]
    split
    · next hk =>
      subst hk
      exact ⟨rfl, Nat.le_add_right ..⟩
    · exact ⟨rfl, Nat.le_refl _⟩
  | _ => exact ⟨rfl, Nat.le_refl _⟩

/-- Only the write of slice `j` touches slice output `j`. -/
theorem StepsTo.slOut_eq (j : Fin 8) (hj : ∀ sl e, s.run ≠ some (.encode ⟨.write j sl, e⟩)) :
    t.streams.slOut[j] = s.streams.slOut[j] := by
  cases h with
  | encodeStart h' => exact absurd h' hrun
  | encodeWrite h' | encodeFail h' =>
    rw [State.setRun_streams, State.setSlOut_streams, getElem_set_fin, if_neg]
    rintro rfl
    exact hj _ _ h'
  | _ => rfl

/-- Only the read of slice `j`, where it is present, touches slice input `j`. -/
theorem StepsTo.slIn_eq (j : Fin 8)
    (hj : ∀ r, s.run = some (.decode r) → r.phase = .read j → r.present.getLsbD j.val = false) :
    t.streams.slIn[j] = s.streams.slIn[j] := by
  cases h with
  | decodeStart h' => exact absurd h' hrun
  | decodeRead h' hphase hpresent =>
    rw [State.setRun_streams, State.setSlIn_streams, getElem_set_fin, if_neg]
    rintro rfl
    exact Bool.false_ne_true ((hj _ h' hphase).symm.trans hpresent)
  | _ => rfl

/-- Only the read of an encode iteration touches the source. -/
theorem StepsTo.src_eq (hsrc : ∀ e, s.run ≠ some (.encode ⟨.read, e⟩)) : t.streams.src = s.streams.src := by
  cases h with
  | encodeStart h' => exact absurd h' hrun
  | encodeRead h' => exact absurd h' (hsrc _)
  | _ => rfl

/-- Only a decode iteration that has read its slices touches `OUT`. -/
theorem StepsTo.out_eq (hout : ∀ r, s.run = some (.decode r) → r.phase ≠ .block) : t.streams.out = s.streams.out := by
  cases h with
  | decodeStart h' => exact absurd h' hrun
  | decodeLast h' hphase | decodeNext h' hphase => exact absurd hphase (hout _ h')
  | _ => rfl

end Forward

/-- Settles O46: stream by stream, what a step of a run does to it, and which phase alone does it. -/
theorem streamsOnlyMoveForward : Obligations.StreamsOnlyMoveForward := by
  intro s t hrun hstep
  have h := step_cases hstep
  obtain ⟨hsrc, hcursor⟩ := h.src_forward hrun
  exact ⟨h.out_prefix hrun, hsrc, hcursor, fun k => ⟨h.slOut_prefix hrun k, h.slIn_forward hrun k⟩, h.slOut_eq hrun,
    h.slIn_eq hrun, h.src_eq hrun, h.out_eq hrun⟩

/-! ### The start of an encode run -/

theorem step_encodeRun {s : State} {src : Option (List Byte)} {sl : Vector (Option (List WriteAnswer)) 8}
    {rest : List Request} (hrun : s.run = none) (hreq : s.requests = .encodeRun src sl :: rest) :
    step s = .next (startEncode src sl (s.setRequests rest)) := step_request hrun hreq

/-- A slice output starts empty, with the answers of its handle (R32). -/
theorem State.withEncodeRun_slOut {sl : Vector (Option (List WriteAnswer)) 8} {k : Fin 8} {answers : List WriteAnswer}
    (hk : sl[k] = some answers) (s : State) (bytes : List Byte) :
    (s.withEncodeRun bytes sl).streams.slOut[k] = ⟨[], answers⟩ := by
  rw [Fin.getElem_fin] at hk
  simp [withEncodeRun, hk]

/-- Settles O47: the three cases are those of `startEncode`, the source before the slices. -/
theorem encodePreconditions : Obligations.EncodePreconditions := by
  intro s src sl rest hrun hreq
  refine ⟨_, step_encodeRun hrun hreq, ?_⟩
  cases src with
  | none =>
    rw [startEncode_of_no_source]
    exact ⟨rfl, rfl, rfl, fun _ => ⟨rfl, rfl, rfl⟩, fun h => absurd rfl h, nofun⟩
  | some bytes =>
    by_cases hall : ∀ k : Fin 8, sl[k] ≠ none
    · rw [startEncode_of_all hall]
      refine ⟨rfl, rfl, rfl, nofun, fun _ ⟨k, hk⟩ => absurd hk (hall k), fun bytes' hbytes _ => ?_⟩
      cases hbytes
      refine ⟨rfl, rfl, rfl, fun k => ?_, rfl, rfl⟩
      obtain ⟨answers, hk⟩ := Option.ne_none_iff_exists'.mp (hall k)
      rw [State.withEncodeRun_slOut hk]
      exact ⟨rfl, hk⟩
    · obtain ⟨k, hk⟩ := not_forall_not.mp hall
      rw [startEncode_of_no_slice hk]
      exact ⟨rfl, rfl, rfl, nofun, fun _ _ => ⟨rfl, rfl, rfl⟩, fun _ _ hall' => absurd hall' hall⟩

/-! ### A failing write -/

theorem OutStream.write_of_fail {o : OutStream} {n : Nat} {rest : List WriteAnswer} (h : o.answers = .fail n :: rest)
    (bs : List Byte) : o.write bs = (false, ⟨o.bytes ++ bs.take n, rest⟩) := by
  rw [write, h]

/-- Settles O49: the failing write is one step, returning the result the next. -/
theorem failingWriteEndsRun : Obligations.FailingWriteEndsRun := by
  intro s k sl terminal n rest hrun hanswers
  have hwrite := OutStream.write_of_fail hanswers sl[k].toList
  have hfail : (s.streams.slOut[k].write sl[k].toList).1 = false := by rw [hwrite]
  have hfirst := step_encodeWrite hrun
  rw [encodeWrite_of_fail hfail, hwrite] at hfirst
  have hsecond := step_encodeDone (State.setRun_run (s.setSlOut k ⟨s.streams.slOut[k].bytes ++ sl[k].toList.take n, rest⟩)
    (some (.encode ⟨.done .sliceWriteFailure, terminal⟩)))
  refine ⟨2, _, (reaches_one hfirst).trans (reaches_one hsecond), rfl, rfl, rfl, rfl, rfl, rfl, rfl, rfl, rfl, ?_,
    fun j hj => ?_⟩
  · rw [State.finish_streams, State.setRun_streams, State.setSlOut_streams, getElem_set_fin, if_pos rfl]
  · rw [State.finish_streams, State.setRun_streams, State.setSlOut_streams, getElem_set_fin, if_neg hj]

/-! ### One slice read -/

/-- After slice `k` comes the next slice. -/
theorem DecodePhase.afterSlices_eq_read {k j : Fin 8} (h : j.val = k.val + 1) : afterSlices (k.val + 1) = .read j := by
  rw [afterSlices, dif_pos (h ▸ j.isLt)]
  exact congrArg _ (Fin.ext h.symm)

/-- After slice 7 comes the block. -/
theorem DecodePhase.afterSlices_eq_block {k : Fin 8} (h : k.val = 7) : afterSlices (k.val + 1) = .block := by
  rw [afterSlices, dif_neg (by omega)]

theorem InStream.length_read_lt_iff (i : InStream) (n : Nat) :
    (i.read n).1.length < n ↔ (i.bytes.drop i.cursor).length < n := by
  obtain ⟨-, hlen, -, -⟩ := i.read_spec n
  rw [hlen, List.length_drop]
  omega

/-- Settles O51: the two cases of `decodeRead`, a present slice and an absent one. -/
theorem decodeReadsOneSlice : Obligations.DecodeReadsOneSlice := by
  intro s r k hrun hphase
  have hstep := step_decodeRead hrun hphase
  cases hk : r.present.getLsbD k.val with
  | true =>
    rw [decodeRead_of_present hk] at hstep
    refine ⟨_, _, hstep, rfl, rfl, rfl, rfl, rfl, rfl, fun j => DecodePhase.afterSlices_eq_read,
      DecodePhase.afterSlices_eq_block, fun j hj => ⟨?_, ?_⟩, nofun, fun _ => ⟨?_, ?_, ?_⟩⟩
    · rw [getElem_set_fin, if_neg hj]
    · rw [State.setRun_streams, State.setSlIn_streams, getElem_set_fin, if_neg hj]
    · rw [getElem_set_fin, if_pos rfl]
      rfl
    · rw [State.setRun_streams, State.setSlIn_streams, getElem_set_fin, if_pos rfl]
      rfl
    · rw [Bool.or_eq_true, decide_eq_true_iff, InStream.length_read_lt_iff]
  | false =>
    rw [decodeRead_of_absent hk] at hstep
    exact ⟨_, _, hstep, rfl, rfl, rfl, rfl, rfl, rfl, fun j => DecodePhase.afterSlices_eq_read,
      DecodePhase.afterSlices_eq_block, fun j hj => ⟨rfl, rfl⟩, fun _ => ⟨rfl, rfl⟩, nofun⟩

/-! ### The terminal iteration -/

/-- The terminal iteration writes the last block, and the run returns its result in the next step (R130, R133). -/
theorem reaches_finish_of_terminal {s : State} {r : DecodeRun} (hrun : s.run = some (.decode r))
    (hphase : r.phase = .block) (hterm : r.terminal = true) :
    Reaches 2 s (((s.writeOut r.lastWritten.1).setRun (some (.decode r.afterLast))).finish (decodeOutcome r.lossy)
      r.lastWritten.2) :=
  (reaches_one (step_decodeLast hrun hphase hterm)).trans (reaches_one (step_decodeDone (State.setRun_run ..) rfl))

theorem DecodeRun.lastWritten_of_prev_eq_none {r : DecodeRun} (h : r.prev = none) : r.lastWritten = ([], r.padAnomaly) := by
  rw [lastWritten, h, Option.elim_none]

theorem DecodeRun.lastWritten_of_prev_eq_some {r : DecodeRun} {b : Block} (h : r.prev = some b) :
    r.lastWritten = unpad b := by
  rw [lastWritten, h, Option.elim_some]

/-- Settles O52: what is written is the held block through `unpad`, by its two cases. -/
theorem terminalIterationDecodesNothing : Obligations.TerminalIterationDecodesNothing := by
  intro s r hrun hphase hterm
  refine ⟨2, _, r.lastWritten.1, r.lastWritten.2, reaches_finish_of_terminal hrun hphase hterm, rfl, rfl, rfl, rfl, rfl, rfl,
    rfl, fun hprev => ?_, fun b hprev => ?_⟩
  · rw [DecodeRun.lastWritten_of_prev_eq_none hprev]
    exact ⟨rfl, id⟩
  · rw [DecodeRun.lastWritten_of_prev_eq_some hprev]
    refine ⟨fun hpos hle => ?_, fun hanomaly => ?_⟩
    · rw [unpad_of_mem hpos hle]
      exact ⟨rfl, rfl⟩
    · rw [unpad_of_not_mem hanomaly]
      exact ⟨rfl, rfl⟩

end Sys2Proof.Machine
end

section
/-! Every run ends (spec 44_stream_sequencer.md R137): a bound on the steps left, which every step of a run decreases. -/

namespace Sys2Proof.Machine

open Sys2Proof.Claims

/-! ### What is left of a run -/

/-- The bytes of an input stream that have not been read. -/
def InStream.remaining (i : InStream) : Nat := i.bytes.length - i.cursor

theorem InStream.length_read (i : InStream) (n : Nat) : (i.read n).1.length = min n i.remaining := by
  obtain ⟨-, hlen, -, -⟩ := i.read_spec n
  exact hlen

theorem InStream.remaining_read (i : InStream) (n : Nat) : (i.read n).2.remaining = i.remaining - (i.read n).1.length := by
  obtain ⟨-, -, hbytes, hcursor⟩ := i.read_spec n
  rw [remaining, remaining, hbytes, hcursor, Nat.sub_add_eq]

/-- A bound on the steps left of an encode run whose source has `rem` bytes left: 20 for each iteration still to come. -/
def EncodeRun.stepsLeft (r : EncodeRun) (rem : Nat) : Nat :=
  match r.phase with
  | .read => 20 * (rem + 1)
  | .write k _ => (if r.terminal then 0 else 20 * (rem + 1)) + (9 - k.val)
  | .done _ => 0

/-- A bound on the steps left in the current iteration of a decode run. -/
def DecodePhase.stepsLeft : DecodePhase → Nat
  | .read k => 10 - k.val
  | .block => 1
  | .done => 0

/-- A bound on the steps left of a decode run whose present slice `i` has `rem` bytes left: 20 for each iteration still to come,
of which there is one more as long as this one has already read slice `i`. -/
def DecodeRun.stepsLeft (r : DecodeRun) (i : Fin 8) (rem : Nat) : Nat :=
  (if r.terminal then 0 else 20 * (rem + (if i.val < r.phase.slicesPassed then 1 else 0) + 1)) + r.phase.stepsLeft

/-- A bound on the steps left of the run in progress; a decode run is measured by its slice `i`. -/
def State.stepsLeft (s : State) (i : Fin 8) : Nat :=
  match s.run with
  | none => 0
  | some (.encode r) => r.stepsLeft s.streams.src.remaining
  | some (.decode r) => r.stepsLeft i s.streams.slIn[i].remaining

/-- Slice `i` can measure the run: it is present if this is a decode run. -/
def State.MeasuredBy (s : State) (i : Fin 8) : Prop := ∀ r, s.run = some (.decode r) → r.present.getLsbD i.val = true

theorem State.stepsLeft_encode {s : State} {r : EncodeRun} (h : s.run = some (.encode r)) (i : Fin 8) :
    s.stepsLeft i = r.stepsLeft s.streams.src.remaining := by
  rw [stepsLeft, h]

theorem State.stepsLeft_decode {s : State} {r : DecodeRun} (h : s.run = some (.decode r)) (i : Fin 8) :
    s.stepsLeft i = r.stepsLeft i s.streams.slIn[i].remaining := by
  rw [stepsLeft, h]

/-! ### Every step leaves less -/

theorem EncodeRun.stepsLeft_read_lt (i : InStream) (sl : Slices) (e : Bool) :
    stepsLeft ⟨.write 0 sl, decide ((i.read 12).1.length < 12)⟩ (i.read 12).2.remaining < stepsLeft ⟨.read, e⟩ i.remaining := by
  simp only [stepsLeft, InStream.remaining_read, InStream.length_read, decide_eq_true_eq]
  split <;> simp only [Fin.val_zero] <;> omega

theorem EncodeRun.stepsLeft_afterWrite_lt (k : Fin 8) (sl : Slices) (e : Bool) (rem : Nat) :
    stepsLeft ⟨.afterWrite k sl e, e⟩ rem < stepsLeft ⟨.write k sl, e⟩ rem := by
  rw [EncodePhase.afterWrite]
  by_cases hk : k.val + 1 < 8
  · rw [dif_pos hk]
    simp only [stepsLeft]
    omega
  · rw [dif_neg hk]
    cases e with
    | true =>
      simp only [stepsLeft, if_true]
      omega
    | false =>
      simp only [stepsLeft, Bool.false_eq_true, if_false]
      omega

theorem DecodePhase.stepsLeft_afterSlices_lt (k : Fin 8) : (afterSlices (k.val + 1)).stepsLeft < (read k).stepsLeft := by
  rw [afterSlices]
  split <;> simp only [stepsLeft] <;> omega

/-- Passing another slice than the one that measures the run leaves less. -/
theorem DecodeRun.stepsLeft_pass_lt {r : DecodeRun} {k i : Fin 8} (hphase : r.phase = .read k) (hki : k ≠ i)
    {got : Vector (List Byte) 8} {terminal : Bool} (hterm : r.terminal = true → terminal = true) (rem : Nat) :
    stepsLeft { r with phase := .afterSlices (k.val + 1), got := got, terminal := terminal } i rem < r.stepsLeft i rem := by
  have hlt := DecodePhase.stepsLeft_afterSlices_lt k
  have hk : k.val + 1 ≤ 8 := k.isLt
  have hne : k.val ≠ i.val := fun h => hki (Fin.ext h)
  have hpassed : i.val < k.val + 1 ↔ i.val < k.val := by omega
  simp only [stepsLeft, hphase, DecodePhase.slicesPassed_afterSlices hk, DecodePhase.slicesPassed_read, hpassed]
  cases hr : r.terminal with
  | true =>
    rw [hterm hr]
    simp only [if_true]
    omega
  | false => cases terminal <;> simp only [Bool.false_eq_true, if_true, if_false] <;> omega

/-- Reading the slice that measures the run leaves less: three bytes less, or no further iteration. -/
theorem DecodeRun.stepsLeft_read_lt {r : DecodeRun} {i : Fin 8} (hphase : r.phase = .read i) (st : InStream)
    {got : Vector (List Byte) 8} :
    stepsLeft { r with phase := .afterSlices (i.val + 1), got := got,
                       terminal := r.terminal || decide ((st.read 3).1.length < 3) } i (st.read 3).2.remaining <
      r.stepsLeft i st.remaining := by
  have hlt := DecodePhase.stepsLeft_afterSlices_lt i
  have hi : i.val + 1 ≤ 8 := i.isLt
  have hphaseLeft : (DecodePhase.read i).stepsLeft ≤ 10 := Nat.sub_le ..
  simp only [stepsLeft, hphase, DecodePhase.slicesPassed_afterSlices hi, DecodePhase.slicesPassed_read, InStream.remaining_read,
    InStream.length_read, lt_irrefl, Nat.lt_succ_self, if_true, if_false]
  cases r.terminal with
  | true =>
    simp only [Bool.true_or, if_true]
    omega
  | false =>
    simp only [Bool.false_or, Bool.false_eq_true, if_false, decide_eq_true_eq]
    split <;> omega

theorem DecodeRun.stepsLeft_afterLast_lt {r : DecodeRun} (hphase : r.phase = .block) (hterm : r.terminal = true) (i : Fin 8)
    (rem : Nat) : r.afterLast.stepsLeft i rem < r.stepsLeft i rem := by
  simp [stepsLeft, afterLast, hphase, hterm, DecodePhase.stepsLeft]

theorem DecodeRun.stepsLeft_afterNext_lt {r : DecodeRun} (hphase : r.phase = .block) (hterm : r.terminal = false)
    (acc : DecblkAcc) (i : Fin 8) (rem : Nat) : (r.afterNext acc).stepsLeft i rem < r.stepsLeft i rem := by
  have hi : i.val < 8 := i.isLt
  simp only [stepsLeft, afterNext, hphase, hterm, DecodePhase.stepsLeft, DecodePhase.slicesPassed, Bool.false_eq_true,
    Fin.val_zero, Nat.not_lt_zero, if_false, if_pos hi]
  omega

/-- A step of a run ends it with one result, or leaves less of it and no result. -/
theorem StepsTo.ends_or_progresses {s t : State} (h : StepsTo s t) (hrun : s.run ≠ none) {i : Fin 8} (hi : s.MeasuredBy i) :
    (t.run = none ∧ ∃ res, t.results = s.results ++ [res]) ∨
      (t.run ≠ none ∧ t.results = s.results ∧ t.MeasuredBy i ∧ t.stepsLeft i < s.stepsLeft i) := by
  cases h with
  | idle h' | command h' | noRun h' | encodeStart h' | decodeStart h' => exact absurd h' hrun
  | encodeDone | decodeDone => exact .inl ⟨rfl, _, rfl⟩
  | encodeRead h' =>
    refine .inr ⟨nofun, rfl, nofun, ?_⟩
    rw [State.stepsLeft_encode h', State.stepsLeft_encode (State.setRun_run ..)]
    exact EncodeRun.stepsLeft_read_lt ..
  | encodeWrite h' =>
    refine .inr ⟨nofun, rfl, nofun, ?_⟩
    rw [State.stepsLeft_encode h', State.stepsLeft_encode (State.setRun_run ..)]
    exact EncodeRun.stepsLeft_afterWrite_lt ..
  | @encodeFail k sl e h' =>
    refine .inr ⟨nofun, rfl, nofun, ?_⟩
    rw [State.stepsLeft_encode h', State.stepsLeft_encode (State.setRun_run ..)]
    simp only [EncodeRun.stepsLeft]
    omega
  | @decodeRead r k h' hphase hpresent =>
    refine .inr ⟨nofun, rfl, fun _ hr => ?_, ?_⟩
    · cases hr
      exact hi r h'
    · rw [State.stepsLeft_decode h', State.stepsLeft_decode (State.setRun_run ..), State.setRun_streams,
        State.setSlIn_streams, getElem_set_fin]
      by_cases hik : i = k
      · subst hik
        rw [if_pos rfl]
        exact DecodeRun.stepsLeft_read_lt hphase _
      · rw [if_neg hik]
        exact DecodeRun.stepsLeft_pass_lt hphase (Ne.symm hik) (fun hterm => by rw [hterm, Bool.true_or]) _
  | @decodeSkip r k h' hphase habsent =>
    have hki : k ≠ i := by
      rintro rfl
      exact Bool.false_ne_true (habsent.symm.trans (hi r h'))
    refine .inr ⟨nofun, rfl, fun _ hr => ?_, ?_⟩
    · cases hr
      exact hi r h'
    · rw [State.stepsLeft_decode h', State.stepsLeft_decode (State.setRun_run ..)]
      exact DecodeRun.stepsLeft_pass_lt hphase hki id _
  | @decodeLast r h' hphase hterm =>
    refine .inr ⟨nofun, rfl, fun _ hr => ?_, ?_⟩
    · cases hr
      exact hi r h'
    · rw [State.stepsLeft_decode h', State.stepsLeft_decode (State.setRun_run ..)]
      exact DecodeRun.stepsLeft_afterLast_lt hphase hterm i _
  | @decodeNext r h' hphase hterm =>
    refine .inr ⟨nofun, rfl, fun _ hr => ?_, ?_⟩
    · cases hr
      exact hi r h'
    · rw [State.stepsLeft_decode h', State.stepsLeft_decode (State.setRun_run ..)]
      exact DecodeRun.stepsLeft_afterNext_lt hphase hterm _ i _

/-- A measured run ends with one result, by induction on the bound. -/
theorem exists_reaches_end {s : State} (hrun : s.run ≠ none) {i : Fin 8} (hi : s.MeasuredBy i) :
    ∃ n t, Reaches n s t ∧ t.run = none ∧ t.requests = s.requests ∧ ∃ res, t.results = s.results ++ [res] := by
  induction hleft : s.stepsLeft i using Nat.strongRecOn generalizing s with
  | _ left ih =>
    obtain ⟨r, hr⟩ := Option.ne_none_iff_exists'.mp hrun
    have hstep := step_of_run hr
    have hsteps := step_cases hstep
    obtain ⟨hend, hres⟩ | ⟨hgoes, hresults, hmeasured, hlt⟩ := hsteps.ends_or_progresses hrun hi
    · exact ⟨1, _, reaches_one hstep, hend, hsteps.requests_eq hrun, hres⟩
    · obtain ⟨n, t, hreach, hend, hreq, hres⟩ := ih _ (hleft ▸ hlt) hgoes hmeasured rfl
      rw [hsteps.requests_eq hrun] at hreq
      rw [hresults] at hres
      exact ⟨1 + n, t, (reaches_one hstep).trans hreach, hend, hreq, hres⟩

/-- With at least 7 slices present there is a present one. -/
theorem DecodeRun.Legal.exists_present {r : DecodeRun} (h : r.Legal) : ∃ i : Fin 8, r.present.getLsbD i.val = true :=
  exists_bit_of_popcount_pos (Nat.lt_of_lt_of_le (by decide) h.enough)

/-- Settles O55: a legal decode run has a present slice to measure it by, and an encode run needs none. -/
theorem everyRunEnds : Obligations.EveryRunEnds := by
  intro s hinv hrun
  obtain ⟨r, hr⟩ := Option.ne_none_iff_exists'.mp hrun
  have hmeasured : ∃ i, s.MeasuredBy i := by
    cases r with
    | encode r =>
      refine ⟨0, fun r' hr' => ?_⟩
      cases hr.symm.trans hr'
    | decode r =>
      obtain ⟨i, hi⟩ := DecodeRun.Legal.exists_present (hinv.run _ hr)
      refine ⟨i, fun r' hr' => ?_⟩
      cases hr.symm.trans hr'
      exact hi
  obtain ⟨i, hi⟩ := hmeasured
  exact exists_reaches_end hrun hi

end Sys2Proof.Machine
end

section
/-! A whole encode run (spec 44_stream_sequencer.md R125, R127): the eight writes of an iteration in closed form, the blocks of a
padded plaintext (20_memory.md R39), and what the slices hold after each iteration. -/

namespace Sys2Proof.Machine

open Sys2Proof.Claims

/-! ### The blocks of a plaintext -/

theorem length_padded (pt : List Byte) : (padded pt).length = 12 * blocksOf pt := by
  rw [padded, blocksOf, List.length_append, List.length_replicate]
  omega

/-- What an encode iteration reads is its block, the last one padded (R106, R125). -/
theorem blockRead_eq_blockOf {pt : List Byte} {m : Nat} (hm : m ≤ pt.length / 12) :
    blockRead ((pt.drop (12 * m)).take 12) = blockOf pt m := by
  have hle : 12 * m ≤ pt.length := by omega
  have hlength : ((pt.drop (12 * m)).take 12).length = min 12 (pt.length - 12 * m) := by simp
  rw [blockRead, hlength, blockOf, padded, List.drop_append_of_le_length hle]
  by_cases hlast : pt.length - 12 * m < 12
  · have hmod : pt.length - 12 * m = pt.length % 12 := by omega
    have hshort : (pt.drop (12 * m)).length ≤ 12 := by rw [List.length_drop]; omega
    have htotal (p : Byte) : (pt.drop (12 * m) ++ List.replicate (12 - pt.length % 12) p).length ≤ 12 := by
      rw [List.length_append, List.length_drop, List.length_replicate]
      omega
    rw [if_pos (by omega), List.take_of_length_le hshort, List.take_of_length_le (htotal _), pad, List.length_drop, hmod]
  · rw [if_neg (by omega), List.take_append_of_le_length (by rw [List.length_drop]; omega)]

/-! ### The eight writes of one iteration -/

/-- Every write the host will answer succeeds. -/
def OutStream.AllOk (o : OutStream) : Prop := ∀ x ∈ o.answers, x = .ok

theorem OutStream.AllOk.write {o : OutStream} (h : o.AllOk) (bs : List Byte) :
    (o.write bs).1 = true ∧ (o.write bs).2.bytes = o.bytes ++ bs ∧ (o.write bs).2.AllOk := by
  obtain ⟨-, hbytes, hanswers⟩ := o.write_spec bs
  have hok : (o.write bs).1 = true := by
    rw [← Bool.not_eq_false, OutStream.write_fails_iff]
    rintro ⟨n, rest, hfail⟩
    cases h (.fail n) (hfail ▸ List.mem_cons_self)
  refine ⟨hok, hbytes hok, fun x hx => h x ?_⟩
  rw [hanswers] at hx
  exact List.mem_of_mem_tail hx

/-- The phase in which `n` slices of the iteration have been written. -/
def EncodePhase.afterWrites (n : Nat) (sl : Slices) (terminal : Bool) : EncodePhase :=
  if h : n < 8 then .write ⟨n, h⟩ sl else if terminal then .done .success else .read

/-- The state after writing `n` slices of the iteration that writes `sl` and begins its writes in `s`. -/
def State.afterWrites (s : State) (sl : Slices) (terminal : Bool) (n : Nat) : State :=
  { s with
    run := some (.encode ⟨.afterWrites n sl terminal, terminal⟩)
    streams :=
      { s.streams with
        slOut := Vector.ofFn fun j =>
          if j.val < n then (s.streams.slOut[j].write sl[j].toList).2 else s.streams.slOut[j] } }

theorem State.afterWrites_zero {s : State} {sl : Slices} {e : Bool} (hrun : s.run = some (.encode ⟨.write 0 sl, e⟩)) :
    s.afterWrites sl e 0 = s := by
  have hphase : EncodePhase.afterWrites 0 sl e = .write 0 sl := rfl
  simp only [afterWrites, hphase, ← hrun]
  simp

/-- What is held for each slice, `f` of those written, changes at slice `k` only. -/
theorem set_ofFn_lt {α : Type} (k : Fin 8) (f g : Fin 8 → α) :
    (Vector.ofFn fun j : Fin 8 => if j.val < k.val then f j else g j).set k.val (f k) =
      Vector.ofFn fun j : Fin 8 => if j.val < k.val + 1 then f j else g j := by
  refine Vector.ext fun i hi => ?_
  simp only [Vector.getElem_set, Vector.getElem_ofFn]
  by_cases hik : k.val = i
  · subst hik
    simp
  · have hlt : i < k.val + 1 ↔ i < k.val := by omega
    simp only [hik, hlt, if_false]

/-- One successful write leads from `k` slices written to `k + 1`. -/
theorem step_afterWrites {s : State} (hok : ∀ j : Fin 8, s.streams.slOut[j].AllOk) (sl : Slices) (e : Bool) (k : Fin 8) :
    step (s.afterWrites sl e k.val) = .next (s.afterWrites sl e (k.val + 1)) := by
  have hrun : (s.afterWrites sl e k.val).run = some (.encode ⟨.write k sl, e⟩) := by
    rw [State.afterWrites, EncodePhase.afterWrites, dif_pos k.isLt]
  have hself : (s.afterWrites sl e k.val).streams.slOut[k] = s.streams.slOut[k] := by
    simp [State.afterWrites]
  have hwrite : ((s.afterWrites sl e k.val).streams.slOut[k].write sl[k].toList).1 = true := by
    rw [hself]
    obtain ⟨h, -, -⟩ := (hok k).write sl[k].toList
    exact h
  rw [step_encodeWrite hrun, encodeWrite_of_ok hwrite, hself]
  simp only [State.afterWrites, ← set_ofFn_lt]
  rfl

theorem reaches_afterWrites {s : State} {sl : Slices} {e : Bool} (hrun : s.run = some (.encode ⟨.write 0 sl, e⟩))
    (hok : ∀ j : Fin 8, s.streams.slOut[j].AllOk) {n : Nat} (hn : n ≤ 8) : Reaches n s (s.afterWrites sl e n) := by
  induction n with
  | zero => exact congrArg _ (State.afterWrites_zero hrun).symm
  | succ n ih => exact (ih (Nat.le_of_succ_le hn)).trans (reaches_one (step_afterWrites hok sl e ⟨n, hn⟩))

/-- After eight writes every slice has been written. -/
theorem State.afterWrites_slOut (s : State) (sl : Slices) (e : Bool) (k : Fin 8) :
    (s.afterWrites sl e 8).streams.slOut[k] = (s.streams.slOut[k].write sl[k].toList).2 := by
  simp [afterWrites]

/-! ### Iteration after iteration -/

/-- What slice `k` holds of the first `m` blocks of a plaintext. -/
def sliceOfPlaintext (b : GeneratorMatrix) (pt : List Byte) (m : Nat) (k : Fin 8) : List Byte :=
  (List.range m).flatMap fun n => (encodeBlock b (blockOf pt n))[k].toList

theorem sliceOfPlaintext_succ (b : GeneratorMatrix) (pt : List Byte) (m : Nat) (k : Fin 8) :
    sliceOfPlaintext b pt (m + 1) k = sliceOfPlaintext b pt m k ++ (encodeBlock b (blockOf pt m))[k].toList := by
  simp [sliceOfPlaintext, List.range_succ]

/-- The state `t` of an encode run over `pt` that began in `s` and has written `m` blocks. -/
structure EncodeProgress (s : State) (pt : List Byte) (m : Nat) (phase : EncodePhase) (terminal : Bool) (t : State) : Prop where
  run : t.run = some (.encode ⟨phase, terminal⟩)
  src : t.streams.src = ⟨pt, min (12 * m) pt.length⟩
  slices : ∀ k : Fin 8, t.streams.slOut[k].bytes = sliceOfPlaintext s.config.b pt m k
  allOk : ∀ k : Fin 8, t.streams.slOut[k].AllOk
  config : t.config = s.config
  stat : t.stat = s.stat
  requests : t.requests = s.requests
  responses : t.responses = s.responses
  results : t.results = s.results

/-- A run that has just started has written nothing. -/
theorem EncodeProgress.start {sl : Vector (Option (List WriteAnswer)) 8} (hopen : AllOpen sl) (s : State) (pt : List Byte) :
    EncodeProgress (s.withEncodeRun pt sl) pt 0 .read false (s.withEncodeRun pt sl) where
  run := rfl
  src := by rw [Nat.mul_zero, Nat.zero_min]; rfl
  slices k := by
    obtain ⟨answers, hk, -⟩ := hopen k
    rw [State.withEncodeRun_slOut hk]
    rfl
  allOk k := by
    obtain ⟨answers, hk, hok⟩ := hopen k
    rw [State.withEncodeRun_slOut hk]
    exact hok
  config := rfl
  stat := rfl
  requests := rfl
  responses := rfl
  results := rfl

/-- One iteration writes one block more; it is the last when it has read the end of the plaintext (R125). -/
theorem EncodeProgress.iteration {s t : State} {pt : List Byte} {m : Nat} {e : Bool} (h : EncodeProgress s pt m .read e t)
    (hm : m ≤ pt.length / 12) :
    ∃ u, Reaches 9 t u ∧ EncodeProgress s pt (m + 1) (if m = pt.length / 12 then .done .success else .read)
      (decide (m = pt.length / 12)) u := by
  have hcursor : min (12 * m) pt.length = 12 * m := by omega
  have hread : (t.streams.src.read 12).1 = (pt.drop (12 * m)).take 12 := by rw [h.src, hcursor]; rfl
  have hlength : (t.streams.src.read 12).1.length = min 12 (pt.length - 12 * m) := by rw [hread]; simp
  have hterm : (t.streams.src.read 12).1.length < 12 ↔ m = pt.length / 12 := by omega
  have hblock : blockRead (t.streams.src.read 12).1 = blockOf pt m := hread ▸ blockRead_eq_blockOf hm
  have hfirst := step_encodeRead h.run
  rw [encodeRead_eq, hblock, decide_eq_decide.mpr hterm, h.config] at hfirst
  have hwrites := reaches_afterWrites (State.setRun_run ..) (s := (t.setSrc (t.streams.src.read 12).2).setRun (some (.encode
    ⟨.write 0 (encodeBlock s.config.b (blockOf pt m)), decide (m = pt.length / 12)⟩))) h.allOk (Nat.le_refl 8)
  have hslot (k : Fin 8) := (h.allOk k).write (encodeBlock s.config.b (blockOf pt m))[k].toList
  refine ⟨_, (reaches_one hfirst).trans hwrites, ?_, ?_, fun k => ?_, fun k => ?_, h.config, h.stat, h.requests, h.responses,
    h.results⟩
  · simp [State.afterWrites, EncodePhase.afterWrites]
  · have hnext : (t.streams.src.read 12).2 = ⟨pt, 12 * m + min 12 (pt.length - 12 * m)⟩ := by
      rw [← hlength, InStream.read, h.src, hcursor]
    have hend : 12 * m + min 12 (pt.length - 12 * m) = min (12 * (m + 1)) pt.length := by omega
    rw [← hend]
    exact hnext
  · obtain ⟨-, hbytes, -⟩ := hslot k
    rw [State.afterWrites_slOut, sliceOfPlaintext_succ, ← h.slices k]
    exact hbytes
  · obtain ⟨-, -, hok⟩ := hslot k
    rw [State.afterWrites_slOut]
    exact hok

/-- Iteration after iteration, as many blocks are written as the plaintext fills. -/
theorem EncodeProgress.exists_reaches {s : State} {pt : List Byte} (h : EncodeProgress s pt 0 .read false s) {m : Nat}
    (hm : m ≤ pt.length / 12) : ∃ n t, Reaches n s t ∧ EncodeProgress s pt m .read false t := by
  induction m with
  | zero => exact ⟨0, s, rfl, h⟩
  | succ m ih =>
    obtain ⟨n, t, hreach, hprogress⟩ := ih (Nat.le_of_succ_le hm)
    obtain ⟨u, hiteration, hnext⟩ := hprogress.iteration (Nat.le_of_succ_le hm)
    rw [if_neg (Nat.ne_of_lt hm), decide_eq_false (Nat.ne_of_lt hm)] at hnext
    exact ⟨n + 9, u, hreach.trans hiteration, hnext⟩

/-! ### The whole run -/

/-- A successful encode run: its result, its counters, and what each slice holds (R127). -/
theorem exists_reaches_encoded {s : State} {pt : List Byte} {sl : Vector (Option (List WriteAnswer)) 8} {rest : List Request}
    (hrun : s.run = none) (hreq : s.requests = .encodeRun (some pt) sl :: rest) (hopen : AllOpen sl) :
    ∃ n t, Reaches n s t ∧ t.run = none ∧ t.requests = rest ∧ t.responses = s.responses ∧ t.stat = ⟨0, 0, 0⟩ ∧
      t.results = s.results ++ [⟨.success, false, ⟨0, 0, 0⟩⟩] ∧ t.streams.src.cursor = pt.length ∧
      ∀ k : Fin 8, t.streams.slOut[k].bytes = sliceOfPlaintext s.config.b pt (blocksOf pt) k := by
  have hall (k : Fin 8) : sl[k] ≠ none := by
    obtain ⟨answers, hk, -⟩ := hopen k
    rw [hk]
    nofun
  have hstart := step_encodeRun hrun hreq
  rw [startEncode_of_all hall] at hstart
  obtain ⟨n, t, hreach, hprogress⟩ :=
    (EncodeProgress.start hopen (s.setRequests rest) pt).exists_reaches (Nat.le_refl (pt.length / 12))
  obtain ⟨u, hiteration, hlast⟩ := hprogress.iteration (Nat.le_refl _)
  rw [if_pos rfl] at hlast
  have hfinish := (((reaches_one hstart).trans hreach).trans hiteration).trans (reaches_one (step_encodeDone hlast.run))
  have hcursor : min (12 * (pt.length / 12 + 1)) pt.length = pt.length := by omega
  refine ⟨_, _, hfinish, rfl, hlast.requests, hlast.responses, hlast.stat, ?_, ?_, hlast.slices⟩
  · rw [State.finish_results, hlast.results, hlast.stat]
    rfl
  · rw [State.finish_streams, hlast.src, hcursor]

/-- The bytes of `m` equal parts, found part by part. -/
theorem getElem?_flatMap_range {α : Type} {f : Nat → List α} {len : Nat} (hf : ∀ n, (f n).length = len) {N m u : Nat}
    (hm : m < N) (hu : u < len) : ((List.range N).flatMap f)[len * m + u]? = (f m)[u]? := by
  induction N with
  | zero => exact absurd hm (Nat.not_lt_zero m)
  | succ N ih =>
    have hlength : ((List.range N).flatMap f).length = len * N := by simp [List.length_flatMap, hf, Nat.mul_comm]
    rw [List.range_succ, List.flatMap_append, List.flatMap_singleton]
    by_cases hmN : m < N
    · have hlt : len * m + u < len * N := by
        have hle : len * (m + 1) ≤ len * N := Nat.mul_le_mul_left len hmN
        rw [Nat.mul_succ] at hle
        omega
      rw [List.getElem?_append_left (hlength ▸ hlt), ih hmN]
    · obtain rfl : m = N := by omega
      rw [List.getElem?_append_right (hlength ▸ Nat.le_add_right ..), hlength, Nat.add_sub_cancel_left]

theorem length_sliceOfPlaintext (b : GeneratorMatrix) (pt : List Byte) (m : Nat) (k : Fin 8) :
    (sliceOfPlaintext b pt m k).length = 3 * m := by
  simp [sliceOfPlaintext, List.length_flatMap, Nat.mul_comm]

/-- Byte `t` of a slice's triple of block `n`. -/
theorem getElem?_sliceOfPlaintext (b : GeneratorMatrix) (pt : List Byte) {m n : Nat} (hn : n < m) (k : Fin 8) (t : Fin 3) :
    (sliceOfPlaintext b pt m k)[3 * n + t.val]? = some (encodeBlock b (blockOf pt n))[k][t] := by
  rw [sliceOfPlaintext, getElem?_flatMap_range (fun _ => by simp) hn t.isLt]
  simp

/-- Byte `j` of a block is byte `12m + j` of the padded plaintext (R39). -/
theorem getElem?_padded {pt : List Byte} {m : Nat} (hm : m < blocksOf pt) (j : Fin 12) :
    (padded pt)[12 * m + j.val]? = some (blockOf pt m)[j] := by
  have hlt : 12 * m + j.val < (padded pt).length := by rw [length_padded]; omega
  have hdrop : j.val < (padded pt).length - 12 * m := by omega
  rw [blockOf, Fin.getElem_fin, getElem_blockOfList, List.getD_eq_getElem _ _ (by simp; omega), List.getElem?_eq_getElem hlt]
  simp

/-- Settles O56: the slices hold the blocks one after the other, and slices 4 to 7 the data bits, which are the plaintext. -/
theorem encodeRunResult : Obligations.EncodeRunResult := by
  intro s pt sl rest hrun hreq hopen
  obtain ⟨n, t, hreach, hend, hrest, hresponses, hstat, hresults, hcursor, hslices⟩ := exists_reaches_encoded hrun hreq hopen
  refine ⟨n, t, hreach, hend, hrest, hresponses, hstat, hresults, hcursor, fun k => ⟨hslices k, ?_⟩, fun m q u hm => ?_⟩
  · rw [hslices, length_sliceOfPlaintext, blocksOf]
  · have hslice : t.streams.slOut[4 + q.val].bytes = _ := hslices ⟨4 + q.val, by omega⟩
    have hbyte := getElem?_padded hm ⟨3 * q.val + u.val, by omega⟩
    rw [← Nat.add_assoc] at hbyte
    rw [hslice, getElem?_sliceOfPlaintext _ _ hm, hbyte]
    exact congrArg some (encodeBlock_dataSlices s.config.b (blockOf pt m) q u)

end Sys2Proof.Machine
end

section
/-! A whole decode run (spec 44_stream_sequencer.md R129 to R135): one iteration that is not terminal, the blocks decoded and
written after each, and the end of the run. -/

namespace Sys2Proof.Machine

open Sys2Proof.Claims

/-! ### One iteration that is not terminal -/

theorem presentSlices_gotSlices {r : DecodeRun} {tr : Slices}
    (h : ∀ k : Fin 8, r.present.getLsbD k.val = true → tr[k].toList = r.got[k]) :
    presentSlices r.present (gotSlices r) = presentSlices r.present tr := by
  refine presentSlices_congr fun k hk => ?_
  refine Vector.ext fun t ht => ?_
  simp only [gotSlices, Fin.getElem_fin, Vector.getElem_ofFn, tripleOfList]
  have hgot := h k hk
  rw [Fin.getElem_fin, Fin.getElem_fin] at hgot
  rw [← hgot]
  simp [ht]

theorem decblkStatus_getLsbD_zero (anyUnc : Bool) : (decblkStatus anyUnc).getLsbD 0 = anyUnc := by
  cases anyUnc <;> rfl

/-! ### The blocks of a run -/

theorem length_decodedBlocks (c : Config) (sl : Vector (Option (List Byte)) 8) (m : Nat) :
    (decodedBlocks c sl m).blocks.length = m := by
  induction m with
  | zero => rfl
  | succ m ih => rw [decodedBlocks, List.length_append, ih, List.length_singleton]

theorem decodedBlocks_processed (c : Config) (sl : Vector (Option (List Byte)) 8) (m : Nat) :
    (decodedBlocks c sl m).stat.processed = 8 * m % 2 ^ c.cntW := by
  induction m with
  | zero => rw [Nat.mul_zero, Nat.zero_mod]; rfl
  | succ m ih =>
    rw [decodedBlocks, decodeBlock_stat]
    simp only [Stat.add]
    rw [ih, Nat.mod_add_mod, Nat.mul_succ]

/-- `UNPAD` keeps at most the whole block, and exactly when it is flagged (R109). -/
theorem length_unpad (b : Block) : (unpad b).1.length ≤ 12 ∧ ((unpad b).1.length = 12 ↔ (unpad b).2 = true) := by
  by_cases h : 1 ≤ b[11].toNat ∧ b[11].toNat ≤ 12
  · obtain ⟨hpos, hle⟩ := h
    have hne : 12 - b[11].toNat ≠ 12 := by omega
    rw [unpad_of_mem hpos hle]
    simp [hne]
  · rw [unpad_of_not_mem (by omega)]
    simp

theorem writtenOut_append_singleton (blocks : List Block) (b : Block) :
    writtenOut (blocks ++ [b]) = (blocks.flatMap (fun x => x.toList) ++ (unpad b).1, (unpad b).2) := by
  simp [writtenOut]

theorem length_flatMap_blocks (blocks : List Block) : (blocks.flatMap fun x => x.toList).length = 12 * blocks.length := by
  simp [List.length_flatMap, Nat.mul_comm]

/-- The bytes a run writes: all of its blocks but what the last one loses as padding (R135). -/
theorem length_writtenOut {blocks : List Block} (hne : blocks ≠ []) :
    12 * (blocks.length - 1) ≤ (writtenOut blocks).1.length ∧ (writtenOut blocks).1.length ≤ 12 * blocks.length ∧
      ((writtenOut blocks).1.length = 12 * blocks.length ↔ (writtenOut blocks).2 = true) := by
  obtain ⟨init, b, rfl⟩ : ∃ init b, blocks = init ++ [b] := ⟨_, _, (List.dropLast_append_getLast hne).symm⟩
  obtain ⟨hle, hflagged⟩ := length_unpad b
  rw [writtenOut_append_singleton, ← hflagged]
  simp only [List.length_append, length_flatMap_blocks, List.length_singleton]
  omega

/-! ### Iteration after iteration -/

/-- The state `t` of a decode run over `sl` that began in `s` and has decoded `m` blocks, about to read the next triples. -/
structure DecodeProgress (s : State) (sl : Vector (Option (List Byte)) 8) (m : Nat) (r : DecodeRun) (t : State) : Prop where
  run : t.run = some (.decode r)
  phase : r.phase = .read 0
  terminal : r.terminal = false
  padAnomaly : r.padAnomaly = false
  present : r.present = presentMask sl
  lossy : r.lossy = (decodedBlocks s.config sl m).lossy
  prev : r.prev = (decodedBlocks s.config sl m).blocks.getLast?
  stat : t.stat = (decodedBlocks s.config sl m).stat
  out : t.streams.out = (decodedBlocks s.config sl m).blocks.dropLast.flatMap fun x => x.toList
  slIn : ∀ (k : Fin 8) (bytes : List Byte), sl[k] = some bytes → t.streams.slIn[k] = ⟨bytes, 3 * m⟩
  config : t.config = s.config
  requests : t.requests = s.requests
  responses : t.responses = s.responses
  results : t.results = s.results

/-- A run that has just started has decoded nothing. -/
theorem DecodeProgress.start (s : State) (sl : Vector (Option (List Byte)) 8) :
    DecodeProgress (s.withDecodeRun sl) sl 0 (.initial sl) (s.withDecodeRun sl) where
  run := rfl
  phase := rfl
  terminal := rfl
  padAnomaly := rfl
  present := rfl
  lossy := rfl
  prev := rfl
  stat := rfl
  out := rfl
  slIn _ _ hk := State.withDecodeRun_slIn hk s
  config := rfl
  requests := rfl
  responses := rfl
  results := rfl

section Progress

variable {s t : State} {sl : Vector (Option (List Byte)) 8} {m : Nat} {r : DecodeRun}

/-- The next read of a present slice gives its `m`-th triple, or what is left of it. -/
theorem DecodeProgress.read_eq (h : DecodeProgress s sl m r t) {k : Fin 8} {bytes : List Byte} (hk : sl[k] = some bytes) :
    t.streams.slIn[k].read 3 = ((bytes.drop (3 * m)).take 3, ⟨bytes, 3 * m + min 3 (bytes.length - 3 * m)⟩) := by
  rw [h.slIn k bytes hk, InStream.read, List.length_take, List.length_drop]

theorem DecodeProgress.present_iff (h : DecodeProgress s sl m r t) (k : Fin 8) :
    r.present.getLsbD k.val = true ↔ ∃ bytes, sl[k] = some bytes := by
  rw [h.present, getLsbD_presentMask, Option.isSome_iff_exists]

/-- With a whole triple left in every present slice the iteration is not terminal (R130). -/
theorem DecodeProgress.terminal_eq_false (h : DecodeProgress s sl m r t)
    (hlong : ∀ (k : Fin 8) (bytes : List Byte), sl[k] = some bytes → 3 * (m + 1) ≤ bytes.length) :
    (r.afterSlices 8 t).terminal = false := by
  rw [DecodeRun.afterSlices, h.terminal, Bool.false_or, decide_eq_false_iff_not]
  rintro ⟨k, hread, hshort⟩
  rw [DecodeRun.hasRead, Bool.and_eq_true] at hread
  obtain ⟨-, hpresent⟩ := hread
  obtain ⟨bytes, hk⟩ := (h.present_iff k).mp hpresent
  have hle := hlong k bytes hk
  rw [h.read_eq hk, List.length_take, List.length_drop] at hshort
  omega

theorem getElem_presentSlices (present : BitVec 8) (sl : Slices) (k : Fin 8) :
    (presentSlices present sl)[k] = if present.getLsbD k.val then some sl[k] else none :=
  Vector.getElem_ofFn k.isLt

theorem getElem_triplesAt (sl : Vector (Option (List Byte)) 8) (n : Nat) (k : Fin 8) :
    (triplesAt sl n)[k] = sl[k].map fun bytes => Vector.ofFn fun t : Fin 3 => bytes.getD (3 * n + t.val) 0#8 :=
  Vector.getElem_map ..

/-- What an iteration has read of a present slice. -/
theorem DecodeRun.got_afterSlices {r : DecodeRun} {k : Fin 8} (hk : r.present.getLsbD k.val = true) (s : State) :
    (r.afterSlices 8 s).got[k] = (s.streams.slIn[k].read 3).1 := by
  simp [afterSlices, hasRead, hk]

/-- The bytes of a slice's `m`-th triple. -/
theorem tripleOfList_take_drop (bytes : List Byte) (m : Nat) :
    tripleOfList ((bytes.drop (3 * m)).take 3) = Vector.ofFn fun t : Fin 3 => bytes.getD (3 * m + t.val) 0#8 := by
  refine Vector.ext fun t ht => ?_
  simp [tripleOfList, List.getD_eq_getElem?_getD]

/-- What the iteration hands to `DECBLK` are the `m`-th triples (R129). -/
theorem DecodeProgress.presentSlices_eq (h : DecodeProgress s sl m r t) :
    presentSlices r.present (gotSlices (r.afterSlices 8 t)) = triplesAt sl m := by
  have hslot (k : Fin 8) : (presentSlices r.present (gotSlices (r.afterSlices 8 t)))[k] = (triplesAt sl m)[k] := by
    rw [getElem_presentSlices, getElem_triplesAt]
    cases hk : sl[k] with
    | none =>
      rw [if_neg, Option.map_none]
      rw [h.present_iff, hk]
      nofun
    | some bytes =>
      have hthere : r.present.getLsbD k.val = true := (h.present_iff k).mpr ⟨bytes, hk⟩
      rw [if_pos hthere, Option.map_some, ← tripleOfList_take_drop, gotSlices, Fin.getElem_fin, Vector.getElem_ofFn,
        DecodeRun.got_afterSlices hthere, h.read_eq hk]
  exact Vector.ext fun k hk => hslot ⟨k, hk⟩

/-- One iteration decodes the next triples, and writes the block held before (R129, R131, R132). -/
theorem DecodeProgress.iteration (h : DecodeProgress s sl m r t)
    (hlong : ∀ (k : Fin 8) (bytes : List Byte), sl[k] = some bytes → 3 * (m + 1) ≤ bytes.length) :
    ∃ r' u, Reaches 9 t u ∧ DecodeProgress s sl (m + 1) r' u := by
  have hreads := reaches_afterSlices h.run h.phase (Nat.le_refl 8)
  have hterm := h.terminal_eq_false hlong
  have hstep := step_decodeNext (s := t.afterSlices r 8) rfl rfl hterm
  have hdecoded : (r.afterSlices 8 t).decoded (t.afterSlices r 8) =
      decodeBlock s.config (decodedBlocks s.config sl m).stat (triplesAt sl m) := by
    rw [← h.presentSlices_eq, ← h.stat, ← h.config]
    rfl
  rw [hdecoded] at hstep
  refine ⟨_, _, hreads.trans (reaches_one hstep), rfl, rfl, hterm, h.padAnomaly, h.present, ?lossy, ?prev, rfl, ?out,
    fun k bytes hk => ?slIn, h.config, h.requests, h.responses, h.results⟩
  case lossy => rw [decodedBlocks, ← h.lossy]; rfl
  case prev => rw [decodedBlocks, List.getLast?_concat]; rfl
  case out =>
    have hheld : (r.afterSlices 8 t).heldBytes = r.prev.elim [] fun b => b.toList := rfl
    rw [State.setRun_streams, State.writeOut_streams, hheld, h.prev]
    show t.streams.out ++ _ = _
    rw [h.out, decodedBlocks, List.dropLast_concat]
    cases hlast : (decodedBlocks s.config sl m).blocks.getLast? with
    | none => rw [List.getLast?_eq_none_iff.mp hlast]; rfl
    | some b =>
      obtain ⟨init, hinit⟩ := List.getLast?_eq_some_iff.mp hlast
      simp [hinit]
  case slIn =>
    have hthere : r.hasRead 8 k = true := by
      rw [DecodeRun.hasRead, (h.present_iff k).mpr ⟨bytes, hk⟩, decide_eq_true k.isLt, Bool.and_self]
    have hread : (t.afterSlices r 8).streams.slIn[k] = (t.streams.slIn[k].read 3).2 := by
      rw [State.afterSlices, Fin.getElem_fin, Vector.getElem_ofFn]
      exact if_pos hthere
    have hle := hlong k bytes hk
    have hcursor : 3 * m + min 3 (bytes.length - 3 * m) = 3 * (m + 1) := by omega
    rw [h.read_eq hk, hcursor] at hread
    exact hread

end Progress

/-- Iteration after iteration, as many blocks are decoded as every present slice has triples for. -/
theorem DecodeProgress.exists_reaches {s : State} {sl : Vector (Option (List Byte)) 8} {r : DecodeRun}
    (h : DecodeProgress s sl 0 r s) {m : Nat}
    (hlong : ∀ (k : Fin 8) (bytes : List Byte), sl[k] = some bytes → 3 * m ≤ bytes.length) :
    ∃ n r' t, Reaches n s t ∧ DecodeProgress s sl m r' t := by
  induction m with
  | zero => exact ⟨0, r, s, rfl, h⟩
  | succ m ih =>
    obtain ⟨n, r', t, hreach, hprogress⟩ := ih fun k bytes hk => Nat.le_trans (Nat.le_add_right ..) (hlong k bytes hk)
    obtain ⟨r'', u, hiteration, hnext⟩ := hprogress.iteration hlong
    exact ⟨n + 9, r'', u, hreach.trans hiteration, hnext⟩

/-! ### The end of a run -/

section End

variable {s t : State} {sl : Vector (Option (List Byte)) 8} {m : Nat} {r : DecodeRun}

/-- A present slice without a whole triple left makes the iteration terminal (R130). -/
theorem DecodeProgress.terminal_eq_true (h : DecodeProgress s sl m r t) {k : Fin 8} {bytes : List Byte} (hk : sl[k] = some bytes)
    (hshort : bytes.length < 3 * m + 3) : (r.afterSlices 8 t).terminal = true := by
  refine DecodeRun.terminal_afterSlices ((h.present_iff k).mpr ⟨bytes, hk⟩) ?_
  rw [h.read_eq hk, List.length_take, List.length_drop]
  omega

/-- The terminal iteration completes what the run writes of its blocks (R131). -/
theorem DecodeProgress.out_append_lastWritten (h : DecodeProgress s sl m r t) :
    (t.streams.out ++ r.lastWritten.1, r.lastWritten.2) = writtenOut (decodedBlocks s.config sl m).blocks := by
  rw [h.out, writtenOut]
  cases hlast : (decodedBlocks s.config sl m).blocks.getLast? with
  | none => rw [DecodeRun.lastWritten_of_prev_eq_none (h.prev.trans hlast), List.getLast?_eq_none_iff.mp hlast, h.padAnomaly]; rfl
  | some b => rw [DecodeRun.lastWritten_of_prev_eq_some (h.prev.trans hlast)]

end End

/-- A whole decode run over `m` triples of every present slice: what it counts, writes and answers (R129 to R135). -/
theorem exists_reaches_decoded {s : State} {sl : Vector (Option (List Byte)) 8} {rest : List Request} {m : Nat}
    (hrun : s.run = none) (hreq : s.requests = .decodeRun sl :: rest) (henough : 7 ≤ presentCount sl)
    (hlong : ∀ (k : Fin 8) (bytes : List Byte), sl[k] = some bytes → 3 * m ≤ bytes.length)
    (hshort : ∃ (k : Fin 8) (bytes : List Byte), sl[k] = some bytes ∧ bytes.length < 3 * m + 3) :
    ∃ n t, Reaches n s t ∧ t.run = none ∧ t.requests = rest ∧ t.responses = s.responses ∧
      t.stat = (decodedBlocks s.config sl m).stat ∧ t.streams.out = (writtenOut (decodedBlocks s.config sl m).blocks).1 ∧
      t.results = s.results ++ [⟨if (decodedBlocks s.config sl m).lossy then .lossy else .success,
        (writtenOut (decodedBlocks s.config sl m).blocks).2, (decodedBlocks s.config sl m).stat⟩] := by
  have hstart := step_decodeRun hrun hreq
  rw [startDecode_of_le henough] at hstart
  obtain ⟨n, r, t, hreach, h⟩ := (DecodeProgress.start (s.setRequests rest) sl).exists_reaches hlong
  obtain ⟨k, bytes, hk, hlt⟩ := hshort
  have hreads := reaches_afterSlices h.run h.phase (Nat.le_refl 8)
  have hfinish := reaches_finish_of_terminal (s := t.afterSlices r 8) rfl rfl (h.terminal_eq_true hk hlt)
  have hwritten : (t.streams.out ++ r.lastWritten.1, r.lastWritten.2) = writtenOut (decodedBlocks s.config sl m).blocks :=
    h.out_append_lastWritten
  refine ⟨_, _, (((reaches_one hstart).trans hreach).trans hreads).trans hfinish, rfl, h.requests, h.responses, h.stat,
    congrArg Prod.fst hwritten, ?_⟩
  show t.results ++ [⟨decodeOutcome r.lossy, r.lastWritten.2, t.stat⟩] = _
  rw [h.results, h.lossy, h.stat, ← hwritten]
  rfl

/-- Settles O57: an iteration is `DECBLK` of its triples, and a run is its iterations and the terminal one. -/
theorem decodeRunBlocks : Obligations.DecodeRunBlocks := by
  refine ⟨fun s r tr hrun hphase hterm htr => ?iteration, fun s sl rest m hrun hreq henough hlong hshort => ?run⟩
  case iteration =>
    have hdecoded : r.decoded s = decodeBlock s.config s.stat (presentSlices r.present tr) := by
      rw [DecodeRun.decoded, presentSlices_gotSlices htr]
    refine ⟨_, _, _, _, _, exec_decblk r.present tr s, rfl, step_decodeNext hrun hphase hterm, ?_, rfl, ?_, ?_, rfl, hterm,
      rfl, rfl, rfl, rfl, rfl, rfl, rfl⟩
    · rw [State.setRun_stat, State.writeOut_stat, State.setStat_stat, hdecoded]
      rfl
    · rw [DecodeRun.afterNext, hdecoded]
    · rw [decblkStatus_getLsbD_zero, DecodeRun.afterNext, hdecoded]
  case run =>
    obtain ⟨n, t, hreach, hend, hrest, hresponses, hstat, hout, hresults⟩ :=
      exists_reaches_decoded hrun hreq henough hlong hshort
    have hlength := length_decodedBlocks s.config sl m
    refine ⟨n, t, hreach, hend, hrest, hresponses, hstat, hout, hresults, hlength, decodedBlocks_processed .., ?_, fun hm => ?_⟩
    · rintro rfl
      rfl
    · have hne : (decodedBlocks s.config sl m).blocks ≠ [] := List.ne_nil_of_length_pos (hlength.symm ▸ hm)
      have hwritten := length_writtenOut hne
      rwa [hlength] at hwritten

end Sys2Proof.Machine
end

section
/-! Encoding a plaintext and decoding its slices (spec 44_stream_sequencer.md R139), with all eight slices and with one lost. -/

namespace Sys2Proof.Machine

open Sys2Proof.Claims

/-! ### Decoding the slices of a plaintext -/

/-- The slices of an encoded plaintext, those the host still has. -/
def slicesOfPlaintext (b : GeneratorMatrix) (pt : List Byte) (has : Fin 8 → Bool) : Vector (Option (List Byte)) 8 :=
  Vector.ofFn fun k => if has k then some (sliceOfPlaintext b pt (blocksOf pt) k) else none

theorem getElem_slicesOfPlaintext (b : GeneratorMatrix) (pt : List Byte) (has : Fin 8 → Bool) (k : Fin 8) :
    (slicesOfPlaintext b pt has)[k] = if has k then some (sliceOfPlaintext b pt (blocksOf pt) k) else none :=
  Vector.getElem_ofFn k.isLt

/-- Every slice the host has is three bytes a block long. -/
theorem length_of_slicesOfPlaintext {b : GeneratorMatrix} {pt : List Byte} {has : Fin 8 → Bool} {k : Fin 8} {bytes : List Byte}
    (hk : (slicesOfPlaintext b pt has)[k] = some bytes) : bytes.length = 3 * blocksOf pt := by
  rw [getElem_slicesOfPlaintext] at hk
  cases hhas : has k with
  | true =>
    rw [hhas, if_pos rfl] at hk
    cases hk
    exact length_sliceOfPlaintext ..
  | false =>
    rw [hhas] at hk
    cases hk

theorem presentCount_slicesOfPlaintext (b : GeneratorMatrix) (pt : List Byte) {has : Fin 8 → Bool} {present : BitVec 8}
    (hpresent : ∀ k : Fin 8, present.getLsbD k.val = has k) :
    presentCount (slicesOfPlaintext b pt has) = popcount present := by
  rw [← popcount_presentMask]
  refine congrArg popcount (BitVec.eq_of_getLsbD_eq fun p hp => ?_)
  have hmask := getLsbD_presentMask (slicesOfPlaintext b pt has) ⟨p, hp⟩
  rw [hpresent ⟨p, hp⟩, hmask, getElem_slicesOfPlaintext]
  cases has ⟨p, hp⟩ <;> rfl

/-- The `n`-th triples of the slices are those of block `n`. -/
theorem triplesAt_slicesOfPlaintext {b : GeneratorMatrix} {pt : List Byte} {has : Fin 8 → Bool} {present : BitVec 8}
    (hpresent : ∀ k : Fin 8, present.getLsbD k.val = has k) {n : Nat} (hn : n < blocksOf pt) :
    triplesAt (slicesOfPlaintext b pt has) n = presentSlices present (encodeBlock b (blockOf pt n)) := by
  have hslot (k : Fin 8) : (triplesAt (slicesOfPlaintext b pt has) n)[k] =
      (presentSlices present (encodeBlock b (blockOf pt n)))[k] := by
    rw [getElem_triplesAt, getElem_presentSlices, getElem_slicesOfPlaintext, hpresent]
    cases has k with
    | false => rfl
    | true =>
      refine congrArg some (Vector.ext fun t ht => ?_)
      rw [Vector.getElem_ofFn, List.getD_eq_getElem?_getD, getElem?_sliceOfPlaintext b pt hn k ⟨t, ht⟩]
      rfl
  exact Vector.ext fun k hk => hslot ⟨k, hk⟩

/-- If every block decodes to itself with `hits n` of its planes corrected, then so do all of them, the counters wrapping. -/
theorem decodedBlocks_of_blocks {c : Config} {sl : Vector (Option (List Byte)) 8} {blk : Nat → Block} {hits : Nat → Nat}
    {m : Nat} (h : ∀ n < m, ∀ st, decodeBlock c st (triplesAt sl n) = ⟨blk n, false, st.add c ⟨8, hits n, 0⟩⟩) :
    decodedBlocks c sl m = ⟨⟨8 * m % 2 ^ c.cntW, ((List.range m).map hits).sum % 2 ^ c.cntW, 0⟩, false,
      (List.range m).map blk⟩ := by
  induction m with
  | zero => simp [decodedBlocks]
  | succ m ih =>
    rw [decodedBlocks, ih fun n hn => h n (Nat.lt_succ_of_lt hn), h m (Nat.lt_succ_self m)]
    simp [Stat.add, List.range_succ, Nat.mul_succ]

/-! ### The plaintext written again -/

theorem blockOf_last (pt : List Byte) : blockOf pt (pt.length / 12) = pad (pt.drop (12 * (pt.length / 12))) := by
  have hshort : (pt.drop (12 * (pt.length / 12))).length < 12 := by rw [List.length_drop]; omega
  rw [← blockRead_eq_blockOf (Nat.le_refl _), List.take_of_length_le (Nat.le_of_lt hshort), blockRead, if_pos hshort]

theorem blockOf_toList_of_lt {pt : List Byte} {m : Nat} (hm : m < pt.length / 12) :
    (blockOf pt m).toList = (pt.drop (12 * m)).take 12 := by
  have hlong : ((pt.drop (12 * m)).take 12).length = 12 := by
    rw [List.length_take, List.length_drop]
    omega
  rw [← blockRead_eq_blockOf (Nat.le_of_lt hm), blockRead, if_neg (by omega)]
  refine List.ext_getElem (by simp [hlong]) fun j hj hj' => ?_
  rw [Vector.getElem_toList, getElem_blockOfList, List.getD_eq_getElem _ _ hj']

/-- The whole blocks of a plaintext are its first bytes. -/
theorem flatMap_blockOf {pt : List Byte} {m : Nat} (hm : m ≤ pt.length / 12) :
    ((List.range m).map (blockOf pt)).flatMap (fun x => x.toList) = pt.take (12 * m) := by
  induction m with
  | zero => simp
  | succ m ih =>
    rw [List.range_succ, List.map_append, List.flatMap_append, ih (Nat.le_of_succ_le hm), List.map_singleton,
      List.flatMap_singleton, blockOf_toList_of_lt hm, Nat.mul_succ, List.take_add]

/-- Writing out the blocks of a plaintext gives the plaintext: the padding of the last one is stripped (R106, R131). -/
theorem writtenOut_blocksOf (pt : List Byte) : writtenOut ((List.range (blocksOf pt)).map (blockOf pt)) = (pt, false) := by
  have hchunk : (pt.drop (12 * (pt.length / 12))).length ≤ 11 := by rw [List.length_drop]; omega
  rw [blocksOf, List.range_succ, List.map_append, List.map_singleton, writtenOut_append_singleton,
    flatMap_blockOf (Nat.le_refl _), blockOf_last, unpadInvertsPad _ hchunk, List.take_append_drop]

/-- A decode run over slices of a plaintext that decode block by block writes the plaintext, and counts what was corrected. -/
theorem exists_reaches_plaintext {u : State} {pt : List Byte} {has : Fin 8 → Bool} {present : BitVec 8} {rest : List Request}
    {hits : Nat → Nat} (hrun : u.run = none)
    (hreq : u.requests = .decodeRun (slicesOfPlaintext u.config.b pt has) :: rest)
    (hpresent : ∀ k : Fin 8, present.getLsbD k.val = has k) (henough : 7 ≤ popcount present)
    (hblock : ∀ n < blocksOf pt, ∀ st, decodeBlock u.config st (presentSlices present (encodeBlock u.config.b (blockOf pt n))) =
      ⟨blockOf pt n, false, st.add u.config ⟨8, hits n, 0⟩⟩) :
    ∃ n v, Reaches n u v ∧ v.run = none ∧ v.requests = rest ∧ v.streams.out = pt ∧
      v.results = u.results ++ [⟨.success, false, ⟨8 * blocksOf pt % 2 ^ u.config.cntW,
        ((List.range (blocksOf pt)).map hits).sum % 2 ^ u.config.cntW, 0⟩⟩] := by
  have hcount := presentCount_slicesOfPlaintext u.config.b pt hpresent
  have hdecoded := decodedBlocks_of_blocks (c := u.config) (sl := slicesOfPlaintext u.config.b pt has) (m := blocksOf pt)
    (fun n hn st => (congrArg _ (triplesAt_slicesOfPlaintext hpresent hn)).trans (hblock n hn st))
  obtain ⟨k, hk⟩ := exists_bit_of_popcount_pos (Nat.lt_of_lt_of_le (by decide) henough)
  have hslice : (slicesOfPlaintext u.config.b pt has)[k] = some (sliceOfPlaintext u.config.b pt (blocksOf pt) k) := by
    rw [getElem_slicesOfPlaintext, ← hpresent, if_pos hk]
  obtain ⟨n, v, hreach, hend, hrest, -, -, hout, hresults⟩ := exists_reaches_decoded (m := blocksOf pt) hrun hreq
    (hcount ▸ henough) (fun j bytes hj => Nat.le_of_eq (length_of_slicesOfPlaintext hj).symm)
    ⟨k, _, hslice, by rw [length_of_slicesOfPlaintext hslice]; omega⟩
  rw [hdecoded, writtenOut_blocksOf] at hout hresults
  exact ⟨n, v, hreach, hend, hrest, hout, hresults⟩

/-! ### The round trips -/

/-- Settles O58: every block comes back as it was, by `decodeBlock_encodeBlock`. -/
theorem streamRoundTrip : Obligations.StreamRoundTrip := by
  intro s pt sl rest hrun hreq hopen
  obtain ⟨n, t, hreach, hend, hrest, -, -, hresults, -, hslices⟩ := exists_reaches_encoded hrun hreq hopen
  refine ⟨n, t, hreach, hend, hrest, hresults, fun u rest' hconfig hurun hureq => ?_⟩
  have hhandles : (Vector.ofFn fun k : Fin 8 => some t.streams.slOut[k].bytes) =
      slicesOfPlaintext u.config.b pt fun _ => true := by
    simp only [hslices, hconfig]
    rfl
  rw [hhandles] at hureq
  obtain ⟨n', v, hreach', hend', hrest', hout, hresult⟩ := exists_reaches_plaintext (present := 0xFF#8) (hits := fun _ => 0)
    hurun hureq (by decide) (by decide) fun m _ st => decodeBlock_encodeBlock u.config st (blockOf pt m)
  refine ⟨n', v, hreach', hend', hrest', hout, ?_⟩
  simpa [hconfig] using hresult

theorem popcount_allBut (k : Fin 8) : popcount (allBut k) = 7 := by
  revert k
  decide

theorem planesWith_le (f : Nat → Bool) : planesWith f ≤ 8 := List.countP_le_length

/-- Settles O59: every block comes back by `decodeBlock_encodeBlock_allBut`, with at most 8 corrections each. -/
theorem streamRoundTripOneSliceLost : Obligations.StreamRoundTripOneSliceLost := by
  intro s pt sl rest lost hb hrun hreq hopen
  obtain ⟨n, t, hreach, hend, hrest, -, -, hresults, -, hslices⟩ := exists_reaches_encoded hrun hreq hopen
  refine ⟨n, t, hreach, hend, hrest, hresults, fun u rest' hconfig hurun hureq => ?_⟩
  have hhandles : (Vector.ofFn fun k : Fin 8 => if k = lost then none else some t.streams.slOut[k].bytes) =
      slicesOfPlaintext u.config.b pt fun k => !decide (k = lost) := by
    simp only [hslices, hconfig, slicesOfPlaintext]
    refine congrArg Vector.ofFn (funext fun k => ?_)
    by_cases hk : k = lost <;> simp [hk]
  have hpresent (k : Fin 8) : (allBut lost).getLsbD k.val = !decide (k = lost) := by
    rw [getLsbD_allBut k.isLt]
    simp only [Fin.ext_iff]
  rw [hhandles] at hureq
  obtain ⟨n', v, hreach', hend', hrest', hout, hresult⟩ := exists_reaches_plaintext hurun hureq hpresent
    (Nat.le_of_eq (popcount_allBut lost).symm) fun m _ st =>
    decodeBlock_encodeBlock_allBut (hconfig ▸ hb) st (blockOf pt m) lost
  rw [hconfig] at hresult
  refine ⟨n', v, _, hreach', hend', hrest', hout, ?_, hresult⟩
  have hle := List.sum_le_card_nsmul ((List.range (blocksOf pt)).map fun m =>
    planesWith fun i => sliceTouches (encodeWord u.config.b (plane (blockOf pt m) i)) lost) 8
    (List.forall_mem_map.mpr fun m _ => planesWith_le _)
  rw [List.length_map, List.length_range, smul_eq_mul, Nat.mul_comm, hconfig] at hle
  exact hle

end Sys2Proof.Machine
end
